-- ==== Sys2Proof/Word.lean ====
section
/-! DEFINITION. The two word types of the hardware: the byte and the unsigned 32-bit value (spec/00_scope.md R9). -/

namespace Sys2Proof

/-- An 8-bit unsigned value, 0 to 255 (R9). -/
abbrev Byte := BitVec 8

/-- `u32`: an unsigned 32-bit value. There is no signed value anywhere in this hardware (R9, R114). -/
abbrev Word := BitVec 32

end Sys2Proof
end

