-- ==== Sys2Proof/Syntax.lean ====
section
/-! DEFINITION. The instructions: one constructor for each row of spec/opcode_table.json. An "instruction" of this hardware
is a frame (spec/30_encoding.md R80): seven command frames, host to device, and three response frames, device to host. -/

namespace Sys2Proof

/-- A tag: four bytes in wire order. "A tag is a byte string, not an integer" (R81). -/
structure Tag where
  b0 : Byte
  b1 : Byte
  b2 : Byte
  b3 : Byte
  deriving DecidableEq, Repr

/-- The closed table of seven command opcodes (R88). -/
inductive Opcode where
  | sync | info | read | eras | writ | sealImage | gogo
  deriving DecidableEq, Repr, Inhabited

/-- The three statuses (R89): success, failure, sync acknowledgement. -/
inductive Status where
  | okok | err | pico
  deriving DecidableEq, Repr, Inhabited

/-- One constructor per row of spec/opcode_table.json. -/
inductive Instr where
  /-- `SYNC` (R161), format CF0. -/
  | sync
  /-- `INFO` (R162), format CF0. -/
  | info
  /-- `READ addr, len` (R163), format CF2. -/
  | read (addr len : Word)
  /-- `ERAS addr, len` (R164), format CF2. -/
  | eras (addr len : Word)
  /-- `WRIT addr, len, data` (R165), format CF2P. -/
  | writ (addr len : Word) (data : List Byte)
  /-- `SEAL addr, len, crc` (R166), format CF3. -/
  | sealImage (addr len crc : Word)
  /-- `GOGO addr` (R167), format CF1. -/
  | gogo (addr : Word)
  /-- `OKOK` with its result arguments and payload (R86, R87: formats RS0, RS1, RS5, RSP). -/
  | okok (rargs : List Word) (rdata : List Byte)
  /-- `ERR!`, no arguments, no payload (R87: format RSE). -/
  | err
  /-- `PICO`, no arguments, no payload (R87: format RSA). -/
  | pico
  deriving DecidableEq, Repr

/-- An in-memory response: status, result arguments, payload (R120). -/
structure Response where
  status : Status
  rargs  : List Word
  rdata  : List Byte
  deriving DecidableEq, Repr

end Sys2Proof
end

