-- ==== Sys2Proof/Config.lean ====
section
/-! DEFINITION. The parameters of spec/00_scope.md R7: what is fixed when a session is created and what the spec
leaves OPEN; and the free values that registers holding no value read as. An OPEN parameter is an opaque constant here (nothing
in Lean can evaluate it, so no proof rests on a value), and an ARGUMENT of `State.create`, so that a claim is made for every value. -/

namespace Sys2Proof

/-- The document's DeviceInfo: the five geometry values, each any u32 (R7, R8, R30), in the order of the `INFO` response. -/
structure Geometry where
  flashAddr  : Word
  flashSize  : Word
  eraseSize  : Word
  writeSize  : Word
  maxDataLen : Word
  deriving DecidableEq, Repr, Inhabited

/-- FLASH_INIT as plain data (R7, R34): the bytes listed, and one fill byte for every address not listed. Every content
of a finite range has this form. -/
structure FlashInit where
  fill  : Byte
  cells : List Host.Cell
  deriving DecidableEq, Repr, Inhabited

/-- The host's image: load address and data (R37). The address is an unbounded natural: the document says "unsigned" only (R181, D31). -/
structure Image where
  addr : Nat
  data : List Byte
  deriving DecidableEq, Repr, Inhabited

/-- What the creator of a session supplies (R234), and on the host side the image in hand (R196) and MAX_SYNC_ATTEMPTS (R7). -/
structure Params where
  geometry        : Geometry
  flashInit       : FlashInit
  image           : Image
  maxSyncAttempts : Nat
  deriving DecidableEq, Repr, Inhabited

/-- The CRC parameters in one record, as decision D2 of spec/92_eei_decisions.md asks: the bit-reversed polynomial, the
initial register value and the final exclusive-or (R103). The record's value is `Machine.crcParams`. -/
structure CrcParams where
  polyReflected : Word
  init          : Word
  xorOut        : Word
  deriving DecidableEq, Repr

/-- FLASH_ADDR, FLASH_SIZE, ERASE_SIZE, WRITE_SIZE, MAX_DATA_LEN of the session after reset: OPEN (R7, D29), assumption log 3. -/
opaque Config.geometry : Geometry

/-- FLASH_INIT of the session after reset: OPEN (R7, D8), assumption log 3. -/
opaque Config.flashInit : FlashInit

/-- The image the host has in hand: an input of the host agent (R196), assumption log 3. -/
opaque Config.image : Image

/-- MAX_SYNC_ATTEMPTS: "OPEN, default 1" (R7). The default; `State.create` takes any value. -/
def Config.maxSyncAttempts : Nat := 1

/-! ### Free values

R40: "No rule reads a general register that holds no value." What such a read would give is a free value: one constant without
a body for each register (assumption log 10). No run reads one (`Obligations.EveryStepKeepsSessionInvariant`). -/

/-- What `opcode` reads as while it holds no value: one of the seven, since only they pass READ_OPCODE (R142). -/
opaque Config.unheldOpcode : Opcode

/-- What `arg[i]` reads as while it holds no value. -/
opaque Config.unheldArg : Nat → Word

/-- What `r_status` reads as while it holds no value. -/
opaque Config.unheldStatus : Status

/-- What `r_arg[j]` reads as while it holds no value. -/
opaque Config.unheldRespArg : Nat → Word

/-- What `r_data` reads as while it holds no value. -/
opaque Config.unheldRespData : List Byte

/-! ### The session after reset -/

/-- The parameters of the session after reset. -/
def Config.params : Params :=
  { geometry := Config.geometry, flashInit := Config.flashInit, image := Config.image,
    maxSyncAttempts := Config.maxSyncAttempts }

end Sys2Proof
end

