-- ==== Sys2Proof/WellFormed.lean ====
section
/-! DEFINITION. Which instructions are well formed (spec/41_frame_codec.md R120; spec/30_encoding.md R85, R87). -/

namespace Sys2Proof

/-- Whether the row is a command (host to device) and not a status (device to host). -/
def Instr.isCommand : Instr → Bool
  | .sync | .info | .read _ _ | .eras _ _ | .writ _ _ _ | .sealImage _ _ _ | .gogo _ => true
  | .okok _ _ | .err | .pico => false

/-- R120: a command's payload is empty unless it carries one, "in which case `len(payload) == args[1]`" (the constructor
gives the number of arguments). R87: an `OKOK` response has 0, 1 or 5 result arguments, and a payload only beside none
(format RSP, the answer to `READ`), of at most 2^32 - 1 bytes. -/
def Instr.wellFormed : Instr → Bool
  | .sync => true
  | .info => true
  | .read _ _ => true
  | .eras _ _ => true
  | .writ _ len data => data.length == len.toNat
  | .sealImage _ _ _ => true
  | .gogo _ => true
  | .okok rargs rdata =>
      (rargs.length == 0 || rargs.length == 1 || rargs.length == 5)
        && (rdata.isEmpty || rargs.isEmpty) && decide (rdata.length < 2 ^ 32)
  | .err => true
  | .pico => true

end Sys2Proof
end

