-- ==== Sys2Proof/Decode.lean ====
section
/-! DEFINITION. Units U1 LE32 (spec/40_primitives.md R100, R101) and U4 FRAME (spec/30_encoding.md R80 to R98,
spec/41_frame_codec.md R120 to R124): the tags, the opcode table, the decoder (total on any bytes, rejecting an unknown
opcode by name), and after it the encoder, written from the same tables. -/

namespace Sys2Proof

/-! ### U1: the 32-bit little-endian codec -/

/-- R100: `enc32(v) = [ v[7:0], v[15:8], v[23:16], v[31:24] ]`. -/
def enc32 (v : Word) : List Byte :=
  [v.extractLsb' 0 8, v.extractLsb' 8 8, v.extractLsb' 16 8, v.extractLsb' 24 8]

/-- R101: `dec32(b) = zext_32(b[0]) + (zext_32(b[1]) << 8) + (zext_32(b[2]) << 16) + (zext_32(b[3]) << 24)`. -/
def dec32 (b0 b1 b2 b3 : Byte) : Word :=
  b0.setWidth 32 + (b1.setWidth 32 <<< 8) + (b2.setWidth 32 <<< 16) + (b3.setWidth 32 <<< 24)

/-! ### The tags and the opcode table -/

/-- The four bytes of a tag in the order they travel (R81). -/
def Tag.bytes (t : Tag) : List Byte := [t.b0, t.b1, t.b2, t.b3]

/-- R81: the opcode tags, bytes in wire order. -/
def Opcode.tag : Opcode → Tag
  | .sync => ⟨0x53, 0x59, 0x4E, 0x43⟩
  | .info => ⟨0x49, 0x4E, 0x46, 0x4F⟩
  | .read => ⟨0x52, 0x45, 0x41, 0x44⟩
  | .eras => ⟨0x45, 0x52, 0x41, 0x53⟩
  | .writ => ⟨0x57, 0x52, 0x49, 0x54⟩
  | .sealImage => ⟨0x53, 0x45, 0x41, 0x4C⟩
  | .gogo => ⟨0x47, 0x4F, 0x47, 0x4F⟩

/-- R81: the status tags, bytes in wire order. -/
def Status.tag : Status → Tag
  | .okok => ⟨0x4F, 0x4B, 0x4F, 0x4B⟩
  | .err => ⟨0x45, 0x52, 0x52, 0x21⟩
  | .pico => ⟨0x50, 0x49, 0x43, 0x4F⟩

/-- R88, R120: the number of fixed arguments. -/
def Opcode.nargs : Opcode → Nat
  | .sync => 0
  | .info => 0
  | .read => 2
  | .eras => 2
  | .writ => 2
  | .sealImage => 3
  | .gogo => 1

/-- R88, R120: whether the command carries an incoming payload (only `WRIT`). -/
def Opcode.hasPayload : Opcode → Bool
  | .writ => true
  | .sync | .info | .read | .eras | .sealImage | .gogo => false

/-- R88, R120: the number of result arguments of the success response. -/
def Opcode.nresp : Opcode → Nat
  | .info => 5
  | .writ => 1
  | .sync | .read | .eras | .sealImage | .gogo => 0

/-- The seven rows of R88, in the table's order. -/
def allOpcodes : List Opcode := [.sync, .info, .read, .eras, .writ, .sealImage, .gogo]

/-- The three rows of R89. -/
def allStatuses : List Status := [.okok, .err, .pico]

/-- R120 `lookup(t)`: the opcode whose tag is `t`, if there is one. "Tags are compared byte for byte" (R81). -/
def opcodeOf (t : Tag) : Option Opcode := allOpcodes.find? fun op => op.tag = t

/-- The status whose tag is `t`, if there is one (R89). -/
def statusOf (t : Tag) : Option Status := allStatuses.find? fun st => st.tag = t

/-- The command of an opcode with its arguments and payload; none where the number of arguments is not the table's. An
opcode without payload has none to look at (R85: "for all others, the data segment is empty"). -/
def buildInstr : Opcode → List Word → List Byte → Option Instr
  | .sync, [], _ => some .sync
  | .info, [], _ => some .info
  | .read, [a, n], _ => some (.read a n)
  | .eras, [a, n], _ => some (.eras a n)
  | .writ, [a, n], d => some (.writ a n d)
  | .sealImage, [a, n, c], _ => some (.sealImage a n c)
  | .gogo, [a], _ => some (.gogo a)
  | _, _, _ => none

/-! ### Decoding -/

/-- The first four bytes of a stream, as a tag, and what follows. -/
def takeTag : List Byte → Option (Tag × List Byte)
  | b0 :: b1 :: b2 :: b3 :: rest => some (⟨b0, b1, b2, b3⟩, rest)
  | _ => none

/-- R84: `n` arguments from the front of a stream, four bytes each, and what follows. -/
def takeArgs : Nat → List Byte → Option (List Word × List Byte)
  | 0, bs => some ([], bs)
  | n + 1, b0 :: b1 :: b2 :: b3 :: rest =>
    match takeArgs n rest with
    | some (ws, r) => some (dec32 b0 b1 b2 b3 :: ws, r)
    | none => none
  | _ + 1, _ => none

/-- `n` bytes from the front of a stream and what follows; none where there are fewer. -/
def takeBytes (n : Nat) (bs : List Byte) : Option (List Byte × List Byte) :=
  if n ≤ bs.length then some (bs.take n, bs.drop n) else none

/-- R85, R90: how many payload bytes follow the arguments: `arg[1]` for `WRIT`, else none. -/
def payloadLen (op : Opcode) (args : List Word) : Nat :=
  if op.hasPayload then (args.getD 1 0).toNat else 0

/-- What a decoder answers (R122): a frame with the bytes after it; an unknown opcode, four bytes consumed; or that the
stream ends before the frame does, and the decoder waits. -/
inductive DecodeResult where
  | frame (i : Instr) (rest : List Byte)
  | unknownOpcode (rest : List Byte)
  | incomplete
  deriving DecidableEq, Repr

/-- R122 `DEC_CMD`: the device side's decoder. It uses the seven command rows only; every other tag, the three status tags
among them, is an unknown opcode (R92, R98). -/
def decodeCmd (bs : List Byte) : DecodeResult :=
  match takeTag bs with
  | none => .incomplete
  | some (t, r1) =>
    match opcodeOf t with
    | none => .unknownOpcode r1
    | some op =>
      match takeArgs op.nargs r1 with
      | none => .incomplete
      | some (args, r2) =>
        match takeBytes (payloadLen op args) r2 with
        | none => .incomplete
        | some (payload, r3) =>
          match buildInstr op args payload with
          | none => .incomplete
          | some i => .frame i r3

/-- The row of the table a status tag opens, read with no command to answer: the tag alone (R91: the length of a response
is not a function of the response). -/
def statusInstr : Status → Instr
  | .okok => .okok [] []
  | .err => .err
  | .pico => .pico

/-- The decoder over all ten rows of spec/opcode_table.json: a command frame as `decodeCmd` reads it, or a status tag. -/
def decodeFrame (bs : List Byte) : DecodeResult :=
  match decodeCmd bs with
  | .frame i rest => .frame i rest
  | .incomplete => .incomplete
  | .unknownOpcode rest =>
    match takeTag bs with
    | none => .unknownOpcode rest
    | some (t, _) =>
      match statusOf t with
      | some st => .frame (statusInstr st) rest
      | none => .unknownOpcode rest

/-- The opcode of a command; none for a status. -/
def Instr.opcode : Instr → Option Opcode
  | .sync => some .sync
  | .info => some .info
  | .read _ _ => some .read
  | .eras _ _ => some .eras
  | .writ _ _ _ => some .writ
  | .sealImage _ _ _ => some .sealImage
  | .gogo _ => some .gogo
  | .okok _ _ => none
  | .err => none
  | .pico => none

/-- R120 `resp_payload_len(args)`: `args[1]` for `READ` (nominal), else 0. R120 defines it on the seven opcode tags only; for the
three status rows it is 0 here: DESIGN CHOICE, assumption log 30. -/
def respPayloadLen : Instr → Nat
  | .read _ len => len.toNat
  | .sync | .info | .eras _ _ | .writ _ _ _ | .sealImage _ _ _ | .gogo _ | .okok _ _ | .err | .pico => 0

/-- R120 `nresp` of the command a response answers (R88). R120 defines it on the seven opcode tags only; for the three status
rows it is 0 here: DESIGN CHOICE, assumption log 30. -/
def respArgCount (cmd : Instr) : Nat :=
  match cmd.opcode with
  | some op => op.nresp
  | none => 0

/-- What `DEC_RESP` answers (R124). `incomplete`: the host's read of the frame has not got all its bytes. -/
inductive RespResult where
  | response (r : Response)
  | protocolViolation
  | incomplete
  deriving DecidableEq, Repr

/-- R124 `DEC_RESP(cmd, s)`: the response to the command `cmd`. -/
def decodeResp (cmd : Instr) (bs : List Byte) : RespResult :=
  match takeTag bs with
  | none => .incomplete
  | some (t, r1) =>
    match statusOf t with
    | none => .protocolViolation
    | some .err => .response ⟨.err, [], []⟩
    | some .pico => .response ⟨.pico, [], []⟩
    | some .okok =>
      match takeArgs (respArgCount cmd) r1 with
      | none => .incomplete
      | some (rargs, r2) =>
        match takeBytes (respPayloadLen cmd) r2 with
        | none => .incomplete
        | some (rdata, _) => .response ⟨.okok, rargs, rdata⟩

/-! ### Encoding -/

/-- The tag that opens a frame. -/
def Instr.tag : Instr → Tag
  | .sync => Opcode.sync.tag
  | .info => Opcode.info.tag
  | .read _ _ => Opcode.read.tag
  | .eras _ _ => Opcode.eras.tag
  | .writ _ _ _ => Opcode.writ.tag
  | .sealImage _ _ _ => Opcode.sealImage.tag
  | .gogo _ => Opcode.gogo.tag
  | .okok _ _ => Status.okok.tag
  | .err => Status.err.tag
  | .pico => Status.pico.tag

/-- The fixed arguments of a frame, in frame order (R82, R86). -/
def Instr.args : Instr → List Word
  | .sync => []
  | .info => []
  | .read a n => [a, n]
  | .eras a n => [a, n]
  | .writ a n _ => [a, n]
  | .sealImage a n c => [a, n, c]
  | .gogo a => [a]
  | .okok rargs _ => rargs
  | .err => []
  | .pico => []

/-- The payload of a frame (R85, R86). -/
def Instr.payload : Instr → List Byte
  | .writ _ _ d => d
  | .okok _ rdata => rdata
  | .sync | .info | .read _ _ | .eras _ _ | .sealImage _ _ _ | .gogo _ | .err | .pico => []

/-- R82, R86: the bytes of a frame: the tag, each argument little-endian, the payload last with no length prefix. -/
def Instr.bytes (i : Instr) : List Byte := i.tag.bytes ++ i.args.flatMap enc32 ++ i.payload

/-- R121 `ENC_CMD`: the bytes of a well-formed record. "An ill-formed record ... has no encoding; a model refuses it." -/
def encode (i : Instr) : Option (List Byte) := if i.wellFormed then some i.bytes else none

/-- A response record as a row of the table. -/
def Response.toInstr (r : Response) : Instr :=
  match r.status with
  | .okok => .okok r.rargs r.rdata
  | .err => .err
  | .pico => .pico

/-- R123 `ENC_RESP`: "For `status == "ERR!"` and `status == "PICO"` both `rargs` and `rpayload` are empty, so the result is
the four tag bytes." There is no exception here. -/
def encodeResp (r : Response) : List Byte := r.toInstr.bytes

/-- R90 `cmd_len`: the length of a command frame from its tag and its `arg[1]`. -/
def frameLen (op : Opcode) (arg1 : Word) : Nat :=
  4 + 4 * op.nargs + (if op.hasPayload then arg1.toNat else 0)

/-! ### The opcode table's words -/

/-- The bytes of an instruction whose bits are `w`, numbered as spec/opcode_table.json numbers them (R98): the first word is
the tag, "whose most significant byte is the first byte on the wire"; the bytes after it stand in ascending order, least
significant first, zeros above `nbits`, as many as the longest command of that tag takes (16, or 12 and the payload). -/
def tableBytes (nbits w : Nat) : List Byte :=
  let v := w % 2 ^ nbits
  let t : Tag := ⟨BitVec.ofNat 8 (v / 2 ^ 24), BitVec.ofNat 8 (v / 2 ^ 16), BitVec.ofNat 8 (v / 2 ^ 8), BitVec.ofNat 8 v⟩
  let extra := if t = Opcode.writ.tag then (v / 2 ^ 64) % 2 ^ 32 else 0
  t.bytes ++ (List.range (12 + extra)).map fun j => BitVec.ofNat 8 (v / 2 ^ (32 + 8 * j))

/-- The instruction the decoder reads from a word of spec/opcode_table.json; none where it refuses. -/
def decodeTableWord (nbits w : Nat) : Option Instr :=
  match decodeFrame (tableBytes nbits w) with
  | .frame i _ => some i
  | .unknownOpcode _ => none
  | .incomplete => none

end Sys2Proof
end

