-- ==== Sys2Proof/Machine/State.lean ====
section
/-! DEFINITION. The state of the machine, whole: the device session (spec/10_state.md R21 to R28, R32, R33), its geometry
and flash (R30, R34), its two streams (R35, R36), the host side (R37), and the moves still to come of the three agents
(R20). Then the reasons a step can stop, and the state after session creation (R39, R231). -/

namespace Sys2Proof.Machine

/-- Why a session is at its end (spec/42_sequencer.md R147): `ended_by_go` or `ended_by_transport`. -/
inductive EndReason where
  | byGo
  | byTransport
  deriving DecidableEq, Repr

/-- R24: the sequencer state. `ended` is the document's explicit terminal state END with its reason. -/
inductive SeqState where
  | waitSync
  | readOpcode
  | readArgs
  | readData
  | handle
  | error
  | ended (why : EndReason)
  deriving DecidableEq, Repr

/-- R22: the argument registers `arg[0]`, `arg[1]`, `arg[2]`. `none` is the spec's own "holds no value" (R39, R40). -/
structure ArgRegs where
  a0 : Option Word
  a1 : Option Word
  a2 : Option Word
  deriving DecidableEq, Repr

/-- R32: the response registers `r_status`, `r_arg[0]` to `r_arg[4]`, `r_data`. `none` is "holds no value" (R39). -/
structure RespRegs where
  status : Option Status
  r0     : Option Word
  r1     : Option Word
  r2     : Option Word
  r3     : Option Word
  r4     : Option Word
  data   : Option (List Byte)
  deriving DecidableEq, Repr

/-- R34, R51: the flash memory model. `cells` lists the bytes that differ from FLASH_INIT, at strictly rising addresses; an
unlisted address reads as its FLASH_INIT byte. FLASH_INIT never changes in a session; it is held here so that a state says
by itself what each of its bytes is. -/
structure Flash where
  init  : FlashInit
  cells : List Host.Cell
  deriving DecidableEq, Repr

/-- The eight steps of the host's fixed sequence (spec/44_host_sequence.md R180). -/
inductive HStep where
  | sync | info | pad | bounds | erase | write | sealImage | go
  deriving DecidableEq, Repr

/-- The six fatal error classes of the host with their information fields (spec/60_exceptions.md R201). -/
inductive HostError where
  | syncTimeout (attempts : Nat)
  | protocolError (step : HStep) (cmd : Option Instr) (got : Tag)
  | integrityError (addr len : Nat) (expected returned : Word)
  | boundsError (addr paddedLen : Nat) (geometry : Geometry)
  | deviceError (step : HStep) (cmd : Option Instr)
  | transportError (step : HStep)
  deriving DecidableEq, Repr

/-- R180 `h_step`: the step in progress, `DONE`, or `FAILED(class, info)`. -/
inductive HProgress where
  | running (step : HStep)
  | done
  | failed (e : HostError)
  deriving DecidableEq, Repr

/-- Where the host stands between two of its steps (R20: "one step per command it sends and per response it reads"): to send
the next command, or to read the response to the one sent. -/
inductive HPhase where
  | send
  | response
  deriving DecidableEq, Repr

/-- R37: the host side. `progress` is `h_step`, `synced` `h_synced`, `attempts` `h_attempts`; `dev`, `image`, `padded` as
there. `phase`, `sent` (the command whose response is awaited, R190) and `cursor` (`k` of R186 in Erase, `off` of R187 in
Write) are where the host stands inside a step of the sequence. `tx`, `rx` are its ends of the Transport, with the numbers of bytes the
Transport has taken and the host has read. -/
structure HostSide where
  progress    : HProgress
  phase       : HPhase
  synced      : Bool
  attempts    : Nat
  maxAttempts : Nat
  dev         : Option Geometry
  image       : Image
  padded      : Option (List Byte)
  cursor      : Nat
  sent        : Option Instr
  tx          : List Byte
  txTaken     : Nat
  rx          : List Byte
  rxPos       : Nat
  deriving DecidableEq, Repr

/-- One move of one agent (R20, R38: "the bytes the Transport will deliver and when" are inputs of the step relation). -/
inductive Move where
  /-- The device side takes its step (one per sequencer state). -/
  | device
  /-- The host takes its step. -/
  | host
  /-- The Transport moves the next `n` bytes (or as many as there are) of the host's transmit stream to `rx` (R54). -/
  | deliver (n : Nat)
  /-- The Transport moves the next `n` bytes (or as many as there are) of `tx` to the host's receive stream (R54). -/
  | deliverBack (n : Nat)
  /-- Bytes arrive in `rx` that the modelled host did not send: line noise, the tail of an earlier session, another host (R209, R233). -/
  | arrive (bs : List Byte)
  /-- An unfaithful Transport, modelled explicitly (D26, program P6): the next `n` bytes of the host's transmit stream arrive as `bs`. -/
  | corrupt (n : Nat) (bs : List Byte)
  /-- The Transport reports disconnect or timeout to the device's read or write (R149, cause E3 of R202). -/
  | failDevice
  /-- The Transport reports disconnect or timeout to the host's read or write (R195); `k` bytes of it were consumed or sent (X15). -/
  | failHost (k : Nat)
  /-- Session creation: a new connection with these parameters (R230, R234). -/
  | newSession (p : Params)
  /-- A further flashing session of the host, with this image and number of attempts, over the same Transport and the same
  device session (R244). -/
  | newFlashing (image : Image) (maxSyncAttempts : Nat)
  deriving DecidableEq, Repr

/-- The state of the machine. -/
structure State where
  /-- R24: the sequencer state. -/
  st        : SeqState
  /-- R25: how many leading bytes of the Sync tag the latest bytes match, 0 to 3. -/
  syncIdx   : Fin 4
  /-- R21: the tag read by READ_OPCODE; `none` is "holds no value". -/
  opcode    : Option Tag
  /-- R22: `arg[0..2]`. -/
  arg       : ArgRegs
  /-- R23: the payload of the command being received; no capacity (D11). -/
  data      : List Byte
  /-- R27: the has-synced flag. -/
  hasSynced : Bool
  /-- R28: the queued status, nothing or `ERR!`. -/
  errQueued : Option Status
  /-- R32: the response registers. -/
  resp      : RespRegs
  /-- R33: the accumulator of U2 CRC32. -/
  crcAcc    : Word
  /-- R30: the five read-only geometry registers. -/
  geom      : Geometry
  /-- R34: the flash. -/
  flash     : Flash
  /-- R35: the receive stream since session creation; it only grows at its tail. -/
  rx        : List Byte
  /-- R26: how many bytes of `rx` the device side has consumed. -/
  rxPos     : Nat
  /-- R35: the transmit stream since session creation; it only grows at its tail. -/
  tx        : List Byte
  /-- How many bytes of `tx` the Transport has taken (R35: "the Transport consumes it"). -/
  txTaken   : Nat
  /-- R37: the host side. -/
  host      : HostSide
  /-- The moves to come, the next one first (the model's own field, assumption log 1). Empty: the device side moves. -/
  agenda    : List Move
  deriving DecidableEq, Repr

/-- Why the machine stops. -/
inductive Fault where
  /-- READ_ARGS, READ_DATA or HANDLE finds in `opcode` a tag outside the table. The table functions "are defined on the seven
  opcode tags and on nothing else" (R120), and READ_OPCODE lets no such tag through (R142), so no run raises it
  (`Obligations.SessionInvariantExcludesFaults`). Raised by `State.heldOpcode`. Safe: the model stops where the spec has no rule. -/
  | opcodeOutsideTable
  deriving DecidableEq, Repr

/-- Why there is no meaning. None is the answer of a device-side command. -/
inductive Refusal where
  /-- An arm of `exec` without a meaning; raised nowhere in this model. Safe. -/
  | notModelled (mnemonic : String)
  /-- The Pad step with WRITE_SIZE, ERASE_SIZE or MAX_DATA_LEN of zero: "A model refuses a host run that breaks one of these"
  (R181 b, X6). Raised by the host's Pad step. Safe. -/
  | hostGranularityZero
  /-- An address or length the host would put in a command does not fit a u32 (R181 a and c, X12). Raised by the host's
  sending steps. Safe. -/
  | hostValueNotU32
  /-- A command record whose payload has not the length that its `args[1]` says: it "is not a command" (R120), it "has no
  encoding; a model refuses it" (R121). Raised by the meaning of `WRIT` and by the host's sending of a command; no run raises it. Safe. -/
  | illFormedCommand
  /-- A response record handed to the host whose shape is not the one of the command it answers; `DEC_RESP` gives none such
  (R124), and an ill-formed record is refused (R121). Raised by the host's meaning of `OKOK`. Safe. -/
  | responseDoesNotFit
  deriving DecidableEq, Repr

/-- Argument registers that hold no value (R39). -/
def ArgRegs.empty : ArgRegs := { a0 := none, a1 := none, a2 := none }

/-- Response registers that hold no value (R39). -/
def RespRegs.empty : RespRegs :=
  { status := none, r0 := none, r1 := none, r2 := none, r3 := none, r4 := none, data := none }

/-- The host side at the start of its sequence (R39, last row; R182). -/
def HostSide.create (p : Params) : HostSide :=
  { progress := .running .sync, phase := .send, synced := false, attempts := 0, maxAttempts := p.maxSyncAttempts,
    dev := none, image := p.image, padded := none, cursor := 0, sent := none, tx := [], txTaken := 0, rx := [], rxPos := 0 }

/-- Session creation (R39 "after session creation", R230, R231). -/
def State.create (p : Params) : State :=
  { st := .waitSync, syncIdx := 0, opcode := none, arg := .empty, data := [], hasSynced := false, errQueued := none,
    resp := .empty, crcAcc := 0xFFFFFFFF, geom := p.geometry, flash := { init := p.flashInit, cells := [] },
    rx := [], rxPos := 0, tx := [], txTaken := 0, host := HostSide.create p, agenda := [] }

/-- The machine right after reset: session creation with the OPEN parameters of `Config`. -/
def State.reset : State := State.create Config.params

end Sys2Proof.Machine
end

