-- ==== Sys2Proof/Machine/Flags.lean ====
section
/-! DEFINITION. Unit U2 CRC32 (spec/40_primitives.md R103 to R107), unit U3 VALID (R110), and the flags of
spec/10_state.md R27 to R29: `has_synced`, `err_queued`, `crc_ok`. There are no condition codes. -/

namespace Sys2Proof.Machine

/-! ### U2: the checksum engine -/

/-- The CRC parameters (R103, decision D2, general knowledge GK1; assumption log 5). -/
def crcParams : CrcParams :=
  { polyReflected := 0xEDB88320, init := 0xFFFFFFFF, xorOut := 0xFFFFFFFF }

/-- One turn of the loop of R105: the test is on bit 0 before the logical shift. -/
def crcShift (acc : Word) : Word :=
  if acc.getLsbD 0 then (acc >>> 1) ^^^ crcParams.polyReflected else acc >>> 1

/-- `n` turns of the loop of R105. -/
def crcShifts : Nat → Word → Word
  | 0, acc => acc
  | n + 1, acc => crcShifts n (crcShift acc)

/-- R105 `CRC_UPDATE(b)` on an accumulator value. -/
def crcByte (acc : Word) (b : Byte) : Word := crcShifts 8 (acc ^^^ b.setWidth 32)

/-- The accumulator after absorbing a byte sequence, in ascending order (R106). -/
def crcAbsorb (acc : Word) (m : List Byte) : Word := m.foldl crcByte acc

/-- R106 `CRC_FINAL`: reads the accumulator and does not change it. -/
def crcFinal (acc : Word) : Word := acc ^^^ crcParams.xorOut

/-- R106 `crc32(m)`. -/
def crc32 (m : List Byte) : Word := crcFinal (crcAbsorb crcParams.init m)

/-- R107: an entry of the table, `T[n]`. -/
def crcTable (n : Byte) : Word := crcShifts 8 (n.setWidth 32)

/-- R104 `CRC_INIT` on the accumulator register. -/
def State.crcInit (s : State) : State := { s with crcAcc := crcParams.init }

/-- R105 `CRC_UPDATE` of each byte of a sequence on the accumulator register. -/
def State.crcUpdate (s : State) (m : List Byte) : State := { s with crcAcc := crcAbsorb s.crcAcc m }

/-! ### U3: the checksum comparator -/

/-- R110 `CRC_CHECK(expected, m)`: the result bit `crc_ok` (R29: an output, not a stored flag). -/
def crcCheck (expected : Word) (m : List Byte) : Bool := crc32 m = expected

/-! ### The stored flags -/

/-- R27: the full match of the Sync tag sets `has_synced`. -/
def State.setSynced (s : State) : State := { s with hasSynced := true }

/-- R28: `ERR!` is queued. -/
def State.queueErr (s : State) : State := { s with errQueued := some .err }

/-- R146: a session reset clears both flags and the match in progress. -/
def State.clearFlags (s : State) : State := { s with hasSynced := false, errQueued := none, syncIdx := 0 }

end Sys2Proof.Machine
end

