-- ==== Sys2Proof/Machine/Ops.lean ====
section
/-! DEFINITION. The named operations over memory, streams and registers (spec/20_memory.md R50 to R54,
spec/00_scope.md R10), taking an error and the session reset (spec/60_exceptions.md R204, R207, spec/42_sequencer.md R146),
the way back (R209), the end of a session (R147, R149), and HANDLE's emission of a response (R145). -/

namespace Sys2Proof.Machine

/-- What a step or a meaning answers. -/
abbrev Result := Host.Outcome State Fault Refusal

/-- A function applied to the next state, where there is one. -/
def mapNext (f : State → State) : Result → Result
  | .next s => .next (f s)
  | .fault r => .fault r
  | .refused r => .refused r

/-- The move being made: the next of the agenda, or a device step where the agenda is empty (assumption log 1). -/
def State.mover (s : State) : Move := s.agenda.headD .device

/-- The agenda without the move just made. -/
def State.popAgenda (s : State) : State := { s with agenda := s.agenda.tail }

/-! ### Streams -/

/-- R36: the bytes that have arrived and have not been consumed. -/
def State.unread (s : State) : List Byte := s.rx.drop s.rxPos

/-- R53 `RxRead(n)`: the next `n` bytes, consumed; none where fewer are there, and then nothing is consumed (R148). -/
def State.rxRead (n : Nat) (s : State) : Option (List Byte × State) :=
  if n ≤ s.unread.length then some (s.unread.take n, { s with rxPos := s.rxPos + n }) else none

/-- R54 `TxWrite(b)`: the bytes are appended to the transmit stream in the order given. -/
def State.txWrite (bs : List Byte) (s : State) : State := { s with tx := s.tx ++ bs }

/-! ### The flash -/

/-- The byte a list of cells gives an address, if it lists it. -/
def cellAt : List Host.Cell → Nat → Option Byte
  | [], _ => none
  | (k, b) :: rest, a => if k = a then some b else cellAt rest a

/-- What FLASH_INIT holds at an address: what an unlisted address of the flash reads as (R34, R233). -/
def initByte (i : FlashInit) (a : Nat) : Byte := (cellAt i.cells a).getD i.fill

/-- One byte of the flash. -/
def Flash.read (f : Flash) (a : Nat) : Byte := (cellAt f.cells a).getD (initByte f.init a)

/-- The cells a run of bytes from address `lo` up needs: those that differ from FLASH_INIT. -/
def cellsFor (i : FlashInit) : Nat → List Byte → List Host.Cell
  | _, [] => []
  | lo, b :: bs => if b = initByte i lo then cellsFor i (lo + 1) bs else (lo, b) :: cellsFor i (lo + 1) bs

/-- R10 `MemWrite(addr, n, v)`: a run of bytes stored from address `lo` up; "a write simply replaces the byte" (R52). The listed cells
stay in canonical form: those below, those of the run, those above. -/
def Flash.write (f : Flash) (lo : Nat) (bs : List Byte) : Flash :=
  { f with
    cells := f.cells.filter (fun c => decide (c.1 < lo)) ++ cellsFor f.init lo bs
      ++ f.cells.filter (fun c => decide (lo + bs.length ≤ c.1)) }

/-- The canonical form: addresses strictly rising, and no cell equal to what an unlisted address reads as. -/
def Flash.wf (f : Flash) : Bool :=
  decide (f.cells.Pairwise (fun c d => c.1 < d.1)) && f.cells.all (fun c => decide (c.2 ≠ initByte f.init c.1))

/-- R51: `MEM_LO = FLASH_ADDR`. -/
def State.memLo (s : State) : Nat := s.geom.flashAddr.toNat

/-- R51: `MEM_HI = FLASH_ADDR + FLASH_SIZE`, exclusive, in `nat`: it does not wrap (R114). -/
def State.memHi (s : State) : Nat := s.geom.flashAddr.toNat + s.geom.flashSize.toNat

/-- R51: "An address `a` is populated when `MEM_LO <= a < MEM_HI`." -/
def State.populated (s : State) (a : Nat) : Bool := decide (s.memLo ≤ a) && decide (a < s.memHi)

/-- The byte at an address: none where it is not populated, "a read of it returns no byte" (R51). -/
def State.byteAt (s : State) (a : Nat) : Option Byte := if s.populated a then some (s.flash.read a) else none

/-- R10 `MemRead(addr, n)`: `n` bytes in ascending address order. Defined on populated ranges; handlers clip first. -/
def State.memRead (s : State) (lo n : Nat) : List Byte := (List.range' lo n).map s.flash.read

/-- The flash replaced. -/
def State.withFlash (f : Flash) (s : State) : State := { s with flash := f }

/-! ### Errors, reset, end -/

/-- R204: "`raise` on the device side means exactly: `err_queued <- "ERR!"; st <- ERROR`." Taking the causes E1 and E2 of R202. -/
def State.raise (s : State) : State := { s.queueErr with st := .error }

/-- R146, R207: the session registers at the values of R39, column "after session reset on protocol error". -/
def State.sessionReset (s : State) : State :=
  { s.clearFlags with st := .waitSync, opcode := none, arg := .empty, data := [], resp := .empty }

/-- R209: "The way back to command decoding is the handshake": `PICO` is written, the flag is set, the match starts anew, and
control goes to READ_OPCODE (R141). -/
def State.acceptSync (s : State) : State :=
  { (s.txWrite Status.pico.tag.bytes).setSynced with syncIdx := 0, st := .readOpcode }

/-- R149: the session goes to END with the reason `ended_by_transport`. Nothing stays queued (R28: `err_queued` holds `ERR!`
exactly when `st == ERROR`), and `has_synced` is 1 there (R27: "in `END` it keeps the value 1"); assumption log 8. -/
def State.endByTransport (s : State) : State := { s.setSynced with st := .ended .byTransport, errQueued := none }

/-! ### Response registers -/

/-- The registers named hold the values given; the rest keep what they hold (R32). -/
def RespRegs.write (r : Response) (old : RespRegs) : RespRegs :=
  { status := some r.status, r0 := r.rargs[0]?.or old.r0, r1 := r.rargs[1]?.or old.r1, r2 := r.rargs[2]?.or old.r2,
    r3 := r.rargs[3]?.or old.r3, r4 := r.rargs[4]?.or old.r4, data := some r.rdata }

/-- R145: the response registers read, `k` result arguments among them; what holds no value reads as a free value (assumption
log 10). -/
def RespRegs.read (k : Nat) (g : RespRegs) : Response :=
  { status := g.status.getD Config.unheldStatus
    rargs :=
      [g.r0.getD (Config.unheldRespArg 0), g.r1.getD (Config.unheldRespArg 1), g.r2.getD (Config.unheldRespArg 2),
        g.r3.getD (Config.unheldRespArg 3), g.r4.getD (Config.unheldRespArg 4)].take k
    rdata := g.data.getD Config.unheldRespData }

/-- R145, after the handler: the response registers are read; on `ERR!` the error is taken and the rest of the response is
discarded, else the whole response is one `TxWrite` and control goes on to `after`. -/
def emit (k : Nat) (after : SeqState) (s : State) : Result :=
  if (s.resp.read k).status = .err then .next s.raise
  else .next { s.txWrite (encodeResp (s.resp.read k)) with st := after }

/-- R145: a handler's response goes to the response registers and is emitted. -/
def complete (r : Response) (after : SeqState) (s : State) : Result :=
  emit r.rargs.length after { s with resp := s.resp.write r }

end Sys2Proof.Machine
end

