-- ==== Sys2Proof/Machine/Operands.lean ====
section
/-! DEFINITION. The operands of the commands: how READ_ARGS writes the argument registers and HANDLE reads them
(spec/10_state.md R21 to R23, R40), and the one address form, the range `[addr, addr + len)` clipped to the populated range
(spec/20_memory.md R51, R58, spec/40_primitives.md R114). -/

namespace Sys2Proof.Machine

/-! ### Registers -/

/-- R143, R22: `arg[0]` to `arg[n - 1]` are written, and the others are left "holding no value" (assumption log 9). -/
def ArgRegs.write (ws : List Word) : ArgRegs := { a0 := ws[0]?, a1 := ws[1]?, a2 := ws[2]? }

/-- `arg[1]`, read; what holds no value reads as a free value (assumption log 10). -/
def ArgRegs.read1 (g : ArgRegs) : Word := g.a1.getD (Config.unheldArg 1)

/-- `arg[0]` to `arg[n - 1]`, read; what holds no value reads as a free value (assumption log 10). -/
def ArgRegs.read (n : Nat) (g : ArgRegs) : List Word :=
  [g.a0.getD (Config.unheldArg 0), g.read1, g.a2.getD (Config.unheldArg 2)].take n

/-- The opcode that the register `opcode` holds (R21), a free one while it holds no value (assumption log 10); a fault where it
holds a tag outside the table (R120). -/
def State.heldOpcode (s : State) : Except Fault Opcode :=
  match s.opcode with
  | none => .ok Config.unheldOpcode
  | some t =>
    match opcodeOf t with
    | none => .error .opcodeOutsideTable
    | some op => .ok op

/-- R145: the command that the registers `opcode`, `arg`, `data` hold: what HANDLE dispatches. -/
def State.heldInstr (s : State) : Except Fault Instr :=
  match s.heldOpcode with
  | .error e => .error e
  | .ok op =>
    match buildInstr op (s.arg.read op.nargs) s.data with
    | none => .error .opcodeOutsideTable
    | some i => .ok i

/-- R143: the arguments that `4 * n` raw bytes carry, little-endian. -/
def argsOf : List Byte → List Word
  | b0 :: b1 :: b2 :: b3 :: rest => dec32 b0 b1 b2 b3 :: argsOf rest
  | _ => []

/-- A command in the registers, as READ_OPCODE, READ_ARGS and READ_DATA leave it, HANDLE next. -/
def State.load (i : Instr) (s : State) : State :=
  { s with opcode := some i.tag, arg := .write i.args, data := i.payload, st := .handle }

/-! ### The clipped range -/

/-- The low end of `[addr, addr + len)` clipped: `max(addr, MEM_LO)` (R163). -/
def State.clipLo (s : State) (addr : Word) : Nat := max addr.toNat s.memLo

/-- The high end clipped: `min(addr + len, MEM_HI)`, both sums in `nat` (R163, R114). Where the flash extends past 2^32 a range
that starts below 2^32 reaches its bytes there, as this pseudocode has it, although X12 of 93_implementation_defined.md calls
them unreachable: DEDUCED, assumption log 26. -/
def State.clipHi (s : State) (addr len : Word) : Nat := min (addr.toNat + len.toNat) s.memHi

/-- The bytes of a range that are populated, ascending (R163). -/
def State.readClipped (s : State) (addr len : Word) : List Byte :=
  if s.clipLo addr < s.clipHi addr len then s.memRead (s.clipLo addr) (s.clipHi addr len - s.clipLo addr) else []

/-- The populated part of a range takes a run of bytes, one for each of its addresses; a range with no populated part changes
nothing (R58). -/
def State.storeClipped (s : State) (addr len : Word) (run : List Byte) : State :=
  s.withFlash (if s.clipLo addr < s.clipHi addr len then s.flash.write (s.clipLo addr) run else s.flash)

/-- The populated part of a range takes the bytes that `bs` gives it, byte `i` of `bs` belonging to `addr + i` (R56); the rest
is dropped in silence (R165). -/
def State.writeClipped (s : State) (addr len : Word) (bs : List Byte) : State :=
  s.storeClipped addr len ((bs.drop (s.clipLo addr - addr.toNat)).take (s.clipHi addr len - s.clipLo addr))

end Sys2Proof.Machine
end

