-- ==== Sys2Proof/Machine/FlashCmds.lean ====
section
/-! DEFINITION. The meanings of `READ`, `ERAS` and `WRIT` (spec/43_commands.md R163, R164, R165). -/

namespace Sys2Proof.Machine

/-- R31: ERASED_BYTE, "erased-byte value (0xFF)". -/
def erasedByte : Byte := 0xFF

/-- R163: the bytes of the populated addresses of `[addr, addr + len)`, ascending; status `OKOK` whatever the range. -/
def execRead (addr len : Word) (s : State) : Result :=
  complete { status := .okok, rargs := [], rdata := s.readClipped addr len } .readOpcode s

/-- R164: the populated part of `[addr, addr + len)` takes ERASED_BYTE; the rest is dropped in silence. -/
def State.eraseClipped (s : State) (addr len : Word) : State :=
  s.storeClipped addr len (List.replicate (s.clipHi addr len - s.clipLo addr) erasedByte)

/-- R164: erase a range; no response data. -/
def execEras (addr len : Word) (s : State) : Result :=
  complete { status := .okok, rargs := [], rdata := [] } .readOpcode (s.eraseClipped addr len)

/-- R165: the checksum of the bytes as received, computed in the accumulator of U2 (R104 to R106); then the populated part of
the range takes the payload. A record whose payload is not `len` bytes long is no command (R120, R121) and is refused. -/
def execWrit (addr len : Word) (data : List Byte) (s : State) : Result :=
  if (Instr.writ addr len data).wellFormed then
    let s1 := s.crcInit.crcUpdate data
    complete { status := .okok, rargs := [crcFinal s1.crcAcc], rdata := [] } .readOpcode (s1.writeClipped addr len data)
  else .refused .illFormedCommand

end Sys2Proof.Machine
end

