-- ==== Sys2Proof/Machine/Handshake.lean ====
section
/-! DEFINITION. The meanings of `SYNC` and `INFO` (spec/43_commands.md R161, R162). -/

namespace Sys2Proof.Machine

/-- R161: `return ("PICO", [], [])`; the session stays synchronised and goes on to READ_OPCODE. -/
def execSync (s : State) : Result := complete { status := .pico, rargs := [], rdata := [] } .readOpcode s

/-- R162: `return ("OKOK", [FLASH_ADDR, FLASH_SIZE, ERASE_SIZE, WRITE_SIZE, MAX_DATA_LEN], [])`. -/
def execInfo (s : State) : Result :=
  complete
    { status := .okok, rdata := [],
      rargs := [s.geom.flashAddr, s.geom.flashSize, s.geom.eraseSize, s.geom.writeSize, s.geom.maxDataLen] }
    .readOpcode s

end Sys2Proof.Machine
end

