-- ==== Sys2Proof/Machine/Session.lean ====
section
/-! DEFINITION. The meanings of `SEAL` and `GOGO` (spec/43_commands.md R166, R167). -/

namespace Sys2Proof.Machine

/-- R166: `return ("OKOK", [], [])`; "The three arguments are decoded and then ignored." -/
def execSeal (_addr _len _crc : Word) (s : State) : Result :=
  complete { status := .okok, rargs := [], rdata := [] } .readOpcode s

/-- R167: `OKOK` is written, then the session ends with the reason `ended_by_go` (R147); the address is not used. -/
def execGogo (_addr : Word) (s : State) : Result :=
  complete { status := .okok, rargs := [], rdata := [] } (.ended .byGo) s

end Sys2Proof.Machine
end

