-- ==== Sys2Proof/Machine/HostOps.lean ====
section
/-! DEFINITION. The operations of the host side (spec/44_host_sequence.md R181 to R195, spec/40_primitives.md R112): ALIGN, the
two ends of the Transport, the command each step sends, and what the host does with a status or a complete response. -/

namespace Sys2Proof.Machine

/-- R112: `align(v, n) = ceil(v/n) * n`, for `n > 0`, in `nat`; for `n = 0`, where R112 gives no value, it is 0 here: DESIGN CHOICE,
assumption log 30. -/
def align (v n : Nat) : Nat := (v + n - 1) / n * n

/-- A natural that fits a u32 (R181 c). -/
def toU32 (n : Nat) : Option Word := if n < 2 ^ 32 then some (BitVec.ofNat 32 n) else none

/-- The bytes of the host's receive stream that it has not read (R36). -/
def HostSide.unread (h : HostSide) : List Byte := h.rx.drop h.rxPos

/-- The bytes of the host's transmit stream that the Transport has not taken. -/
def HostSide.untaken (h : HostSide) : List Byte := h.tx.drop h.txTaken

/-- `n` bytes read from the host's receive stream. -/
def HostSide.advance (n : Nat) (h : HostSide) : HostSide := { h with rxPos := h.rxPos + n }

/-- R191: a fatal error; "After a fatal error the host sends nothing more". -/
def HostSide.fail (e : HostError) (h : HostSide) : HostSide := { h with progress := .failed e }

/-- The next step of the sequence begins, its first command to be sent. -/
def HostSide.goTo (step : HStep) (h : HostSide) : HostSide :=
  { h with progress := .running step, phase := .send, cursor := 0, sent := none }

/-- The same step goes on with its next command, the cursor moved on by `n`. -/
def HostSide.again (n : Nat) (h : HostSide) : HostSide :=
  { h with phase := .send, cursor := h.cursor + n, sent := none }

/-- R182: a failed attempt of the Sync step: the next attempt, or `SyncTimeout` when the budget is used up. -/
def HostSide.attemptFailed (h : HostSide) : HostSide :=
  if h.attempts < h.maxAttempts then { h with phase := .send, sent := none } else h.fail (.syncTimeout h.attempts)

/-- Whether the run of the sequence is over: `DONE`, or `FAILED` (R180, R191). -/
def HostSide.over (h : HostSide) : Bool :=
  match h.progress with
  | .done => true
  | .failed _ => true
  | .running _ => false

/-- R244, R39: the host at the start of its sequence again, with an image and a number of attempts, its ends of the Transport as
they are. -/
def HostSide.restart (image : Image) (maxSyncAttempts : Nat) (h : HostSide) : HostSide :=
  { h with
    progress := .running .sync, phase := .send, synced := false, attempts := 0, maxAttempts := maxSyncAttempts,
    dev := none, image := image, padded := none, cursor := 0, sent := none }

/-- A command's bytes handed to the Transport (`write`), its response awaited (R190). -/
def HostSide.send (cmd : Instr) (bs : List Byte) (h : HostSide) : HostSide :=
  { h with tx := h.tx ++ bs, sent := some cmd, phase := .response }

/-- The four bytes the host reads when it awaits a status. -/
def HostSide.readTag (h : HostSide) : Option Tag := (takeTag h.unread).map fun p => p.1

/-- How many bytes follow an `OKOK` in answer to the command awaited (R190); none for `SYNC`, "read exactly 4 bytes" (R182). -/
def restLen (cmd : Instr) : Nat := 4 * respArgCount cmd + respPayloadLen cmd

/-- R190: how many bytes the response awaited takes, by its status: the four status bytes, and after an `OKOK` the rest. -/
def HostSide.respLen (cmd : Instr) (h : HostSide) : Nat :=
  if h.readTag = some Status.okok.tag then 4 + restLen cmd else 4

/-- The document's DeviceInfo from the five result arguments of `INFO` (R183). -/
def geometryOf : List Word → Option Geometry
  | [a, b, c, d, e] => some { flashAddr := a, flashSize := b, eraseSize := c, writeSize := d, maxDataLen := e }
  | _ => none

/-- R184: the image data and zero bytes up to a multiple of `writeSize`. -/
def padTo (n : Nat) (data : List Byte) : List Byte := data ++ List.replicate (align data.length n - data.length) 0x00

/-- R185: the two conditions of the bounds check, in `nat`. -/
def imageOutOfBounds (addr paddedLen : Nat) (dev : Geometry) : Bool :=
  decide (addr < dev.flashAddr.toNat) || decide (dev.flashAddr.toNat + dev.flashSize.toNat < addr + paddedLen)

/-- What a step of the sequence sends next: a command, nothing more, or a value outside u32 (R181 c). -/
inductive HostCmd where
  | send (cmd : Instr)
  | nothing
  | refuse (r : Refusal)
  deriving DecidableEq, Repr

/-- R186: the `k`-th Erase command, while `k` is below `erase_len / erase_size`. -/
def eraseCmd (addr paddedLen : Nat) (dev : Geometry) (k : Nat) : HostCmd :=
  if k < align paddedLen dev.eraseSize.toNat / dev.eraseSize.toNat then
    match toU32 (addr + k * dev.eraseSize.toNat) with
    | some a => .send (.eras a dev.eraseSize)
    | none => .refuse .hostValueNotU32
  else .nothing

/-- R187: the Write command at offset `off`, while `off` is below the padded length. -/
def writeCmd (addr : Nat) (padded : List Byte) (dev : Geometry) (off : Nat) : HostCmd :=
  if off < padded.length then
    let n := min dev.maxDataLen.toNat (padded.length - off)
    match toU32 (addr + off) with
    | some a => .send (.writ a (BitVec.ofNat 32 n) ((padded.drop off).take n))
    | none => .refuse .hostValueNotU32
  else .nothing

/-- R188: the Seal command, its checksum over all of the padded data. -/
def sealCmd (addr : Nat) (padded : List Byte) : HostCmd :=
  match toU32 addr, toU32 padded.length with
  | some a, some n => .send (.sealImage a n (crc32 padded))
  | _, _ => .refuse .hostValueNotU32

/-- R189: the Go command. -/
def goCmd (addr : Nat) : HostCmd :=
  match toU32 addr with
  | some a => .send (.gogo a)
  | none => .refuse .hostValueNotU32

/-- R182, R181 a: the next `SYNC` command, while the budget lasts; an image address outside u32 is refused before anything is
sent, whatever the budget. -/
def syncCmd (addr attempts maxAttempts : Nat) : HostCmd :=
  match toU32 addr with
  | some _ => if attempts < maxAttempts then .send .sync else .nothing
  | none => .refuse .hostValueNotU32

/-! ### Going on to the next command

R20: "The host takes one step per command it sends". What the sequence does between two commands, the Pad step, the Bounds step
and the ends of the walks of Erase and Write, is done in the step that sends the next command (assumption log 14). -/

/-- What the host comes to when it goes on: a command of a step of the sequence, with the host as it stands there; nothing to
send, the host as it stops; or a refusal. -/
inductive HostNext where
  | send (h : HostSide) (step : HStep) (cmd : Instr)
  | stop (h : HostSide)
  | refuse (r : Refusal)
  deriving DecidableEq, Repr

/-- The command of a step, or what comes after it where it has none to send. -/
def HostCmd.orNext (c : HostCmd) (h : HostSide) (step : HStep) (after : HostNext) : HostNext :=
  match c with
  | .send cmd => .send h step cmd
  | .nothing => after
  | .refuse r => .refuse r

/-- Step 8, Go (R189). -/
def HostSide.nextGo (h : HostSide) : HostNext := (goCmd h.image.addr).orNext h .go (.stop h)

/-- Step 7, Seal (R188). -/
def HostSide.nextSeal (h : HostSide) : HostNext :=
  match h.padded with
  | some padded => (sealCmd h.image.addr padded).orNext h .sealImage (.stop h)
  | none => .stop h

/-- Step 6, Write (R187), and Seal after its last chunk. -/
def HostSide.nextWrite (h : HostSide) : HostNext :=
  match h.dev, h.padded with
  | some dev, some padded =>
    (writeCmd h.image.addr padded dev h.cursor).orNext h .write (h.goTo .sealImage).nextSeal
  | _, _ => .stop h

/-- Step 5, Erase (R186), and Write after its last chunk. -/
def HostSide.nextErase (h : HostSide) : HostNext :=
  match h.dev, h.padded with
  | some dev, some padded =>
    (eraseCmd h.image.addr padded.length dev h.cursor).orNext h .erase (h.goTo .write).nextWrite
  | _, _ => .stop h

/-- Step 4, Bounds check (R185), and Erase after it. Padded data of 2^32 bytes or more fails the check whatever the geometry, and
is a `BoundsError` here, as R185 has it in `nat`, although 95_test_vectors.md 2.3 has that host run refused: DEDUCED, assumption
log 29. -/
def HostSide.nextBounds (h : HostSide) : HostNext :=
  match h.dev, h.padded with
  | some dev, some padded =>
    if imageOutOfBounds h.image.addr padded.length dev then .stop (h.fail (.boundsError h.image.addr padded.length dev))
    else (h.goTo .erase).nextErase
  | _, _ => .stop h

/-- Step 3, Pad (R184), with the conditions of R181 b, and the bounds check after it. -/
def HostSide.nextPad (h : HostSide) : HostNext :=
  match h.dev with
  | some dev =>
    if dev.writeSize = 0 || dev.eraseSize = 0 || dev.maxDataLen = 0 then .refuse .hostGranularityZero
    else HostSide.nextBounds { h.goTo .bounds with padded := some (padTo dev.writeSize.toNat h.image.data) }
  | none => .stop h

/-- Step 2, Info (R183). -/
def HostSide.nextInfo (h : HostSide) : HostNext := .send h .info .info

/-- Step 1, Sync (R182): `SyncTimeout` where no attempt is left. -/
def HostSide.nextSync (h : HostSide) : HostNext :=
  (syncCmd h.image.addr h.attempts h.maxAttempts).orNext h .sync (.stop (h.fail (.syncTimeout h.attempts)))

/-- The next command from where the host stands in the sequence. -/
def HostSide.next (h : HostSide) : HStep → HostNext
  | .sync => h.nextSync
  | .info => h.nextInfo
  | .pad => h.nextPad
  | .bounds => h.nextBounds
  | .erase => h.nextErase
  | .write => h.nextWrite
  | .sealImage => h.nextSeal
  | .go => h.nextGo

/-! ### What the host does with a response -/

/-- The host side replaced. -/
def State.withHost (h : HostSide) (s : State) : State := { s with host := h }

/-- A complete `OKOK` response read in the step in progress. `OKOK` in the Sync step is a failed attempt (R182); elsewhere it
is the success of the step's command (R183, R186, R187, R188). A host that awaits nothing reads nothing. -/
def hostTakeOk (rargs : List Word) (rdata : List Byte) (s : State) : Result :=
  match s.host.progress with
  | .done => .next s
  | .failed _ => .next s
  | .running .sync => .next (s.withHost s.host.attemptFailed)
  | .running .info =>
    match geometryOf rargs with
    | some dev => .next (s.withHost { s.host.goTo .pad with dev := some dev })
    | none => .refused .responseDoesNotFit
  | .running .pad => .next s
  | .running .bounds => .next s
  | .running .erase =>
    match rargs, rdata with
    | [], [] => .next (s.withHost (s.host.again 1))
    | _, _ => .refused .responseDoesNotFit
  | .running .write =>
    match rargs, s.host.sent with
    | [c], some (.writ a n chunk) =>
      if crcCheck c chunk then .next (s.withHost (s.host.again n.toNat))
      else .next (s.withHost (s.host.fail (.integrityError a.toNat n.toNat (crc32 chunk) c)))
    | _, _ => .refused .responseDoesNotFit
  | .running .sealImage =>
    match rargs, rdata with
    | [], [] => .next (s.withHost (s.host.goTo .go))
    | _, _ => .refused .responseDoesNotFit
  | .running .go => .next s

/-- `ERR!` read in the step in progress: a failed attempt in the Sync step (R182), `DeviceError` elsewhere (R190). -/
def hostTakeErr (s : State) : Result :=
  match s.host.progress with
  | .done => .next s
  | .failed _ => .next s
  | .running .sync => .next (s.withHost s.host.attemptFailed)
  | .running .pad => .next s
  | .running .bounds => .next s
  | .running .go => .next s
  | .running .info => .next (s.withHost (s.host.fail (.deviceError .info s.host.sent)))
  | .running .erase => .next (s.withHost (s.host.fail (.deviceError .erase s.host.sent)))
  | .running .write => .next (s.withHost (s.host.fail (.deviceError .write s.host.sent)))
  | .running .sealImage => .next (s.withHost (s.host.fail (.deviceError .sealImage s.host.sent)))

/-- Four bytes that are no `OKOK` and no `ERR!`, where `OKOK` was due: `ProtocolError` (R190, R201). -/
def hostProtocolError (t : Tag) (s : State) : Result :=
  match s.host.progress with
  | .done => .next s
  | .failed _ => .next s
  | .running .pad => .next s
  | .running .bounds => .next s
  | .running .go => .next s
  | .running .sync => .next (s.withHost s.host.attemptFailed)
  | .running .info => .next (s.withHost (s.host.fail (.protocolError .info s.host.sent t)))
  | .running .erase => .next (s.withHost (s.host.fail (.protocolError .erase s.host.sent t)))
  | .running .write => .next (s.withHost (s.host.fail (.protocolError .write s.host.sent t)))
  | .running .sealImage => .next (s.withHost (s.host.fail (.protocolError .sealImage s.host.sent t)))

/-- `PICO` read in the step in progress: the success of the Sync step (R182), `ProtocolError` where `OKOK` was due (R190). -/
def hostTakePico (s : State) : Result :=
  match s.host.progress with
  | .running .sync => .next (s.withHost { s.host.goTo .info with synced := true })
  | .done | .failed _ | .running .info | .running .pad | .running .bounds | .running .erase | .running .write
  | .running .sealImage | .running .go => hostProtocolError Status.pico.tag s

end Sys2Proof.Machine
end

