-- ==== Sys2Proof/Machine/Statuses.lean ====
section
/-! DEFINITION. The meanings of the three response frames, `OKOK`, `ERR!`, `PICO`. A response travels from device to host
(spec/30_encoding.md R80): when the host's step is the move being made, it is the host that has read the frame
(spec/44_host_sequence.md R182, R190). When it is the device side that has read the tag, in READ_OPCODE, "The three status
tags are unknown opcodes when they arrive at the device" (R92), and the device takes the error of cause E1 (R142, R202,
R204). How the device side WRITES the three is in its sequencer and `complete` (R141, R145, R146). Assumption log 2. -/

namespace Sys2Proof.Machine

/-- `OKOK` read by the host (R183, R186 to R188), or by the device (R92). -/
def execOkok (rargs : List Word) (rdata : List Byte) (s : State) : Result :=
  match s.mover with
  | .host => hostTakeOk rargs rdata s
  | .device | .deliver _ | .deliverBack _ | .arrive _ | .corrupt _ _ | .failDevice | .failHost _ | .newSession _
  | .newFlashing _ _ => .next s.raise

/-- `ERR!` read by the host (R190), or by the device (R92). -/
def execErr (s : State) : Result :=
  match s.mover with
  | .host => hostTakeErr s
  | .device | .deliver _ | .deliverBack _ | .arrive _ | .corrupt _ _ | .failDevice | .failHost _ | .newSession _
  | .newFlashing _ _ => .next s.raise

/-- `PICO` read by the host (R182, R190), or by the device (R92). -/
def execPico (s : State) : Result :=
  match s.mover with
  | .host => hostTakePico s
  | .device | .deliver _ | .deliverBack _ | .arrive _ | .corrupt _ _ | .failDevice | .failHost _ | .newSession _
  | .newFlashing _ _ => .next s.raise

end Sys2Proof.Machine
end

