-- ==== Sys2Proof/Machine/Dispatch.lean ====
section
/-! DEFINITION. One arm per row of spec/opcode_table.json: the meaning of each instruction. -/

namespace Sys2Proof.Machine

def exec (i : Instr) (s : State) : Host.Outcome State Fault Refusal :=
  match i with
  | .sync => Sys2Proof.Machine.execSync s
  | .info => Sys2Proof.Machine.execInfo s
  | .read addr len => Sys2Proof.Machine.execRead addr len s
  | .eras addr len => Sys2Proof.Machine.execEras addr len s
  | .writ addr len data => Sys2Proof.Machine.execWrit addr len data s
  | .sealImage addr len crc => Sys2Proof.Machine.execSeal addr len crc s
  | .gogo addr => Sys2Proof.Machine.execGogo addr s
  | .okok rargs rdata => Sys2Proof.Machine.execOkok rargs rdata s
  | .err => Sys2Proof.Machine.execErr s
  | .pico => Sys2Proof.Machine.execPico s

end Sys2Proof.Machine
end

