-- ==== Sys2Proof/Machine/HostSeq.lean ====
section
/-! DEFINITION. The host's sequence, one step of the host agent (spec/44_host_sequence.md R180 to R195): "one step per command it
sends and per response it reads" (R20). "The settle delay is no step at all" (R212). Then what a Transport failure does to it. -/

namespace Sys2Proof.Machine

/-- The bytes of a command handed to the Transport: Sync counts its attempt (R182); after Go the host is `DONE` and reads nothing
(R189). -/
def HostSide.sendIn (step : HStep) (cmd : Instr) (bs : List Byte) (h : HostSide) : HostSide :=
  match step with
  | .sync => { h.send cmd bs with attempts := h.attempts + 1 }
  | .go => { h with tx := h.tx ++ bs, progress := .done }
  | .info => h.send cmd bs
  | .pad => h.send cmd bs
  | .bounds => h.send cmd bs
  | .erase => h.send cmd bs
  | .write => h.send cmd bs
  | .sealImage => h.send cmd bs

/-- The host goes on from a step of the sequence to its next command and sends it (`ENC_CMD`, R121), or stops. -/
def hostSend (step : HStep) (s : State) : Result :=
  match s.host.next step with
  | .send h st cmd =>
    match encode cmd with
    | some bs => .next (s.withHost (h.sendIn st cmd bs))
    | none => .refused .illFormedCommand
  | .stop h => .next (s.withHost h)
  | .refuse r => .refused r

/-- R190, R182: the response to the command sent, read whole and decoded by `DEC_RESP` (R124); the host waits until its bytes are
there. -/
def hostRead (s : State) : Result :=
  match s.host.sent with
  | none => .next s
  | some cmd =>
    if s.host.unread.length < s.host.respLen cmd then .next s
    else
      let s1 := s.withHost (s.host.advance (s.host.respLen cmd))
      match decodeResp cmd (s.host.unread.take (s.host.respLen cmd)) with
      | .response r => exec r.toInstr s1
      | .protocolViolation =>
        match s.host.readTag with
        | some t => hostProtocolError t s1
        | none => .next s
      | .incomplete => .next s

/-- Whether the host reads, and does not send, in its next step: a step of the sequence reads when its command is sent; Pad and
Bounds send nothing (R180), and Go awaits nothing (R189). -/
def HostSide.reading (h : HostSide) (step : HStep) : Bool :=
  match step with
  | .pad => false
  | .bounds => false
  | .go => false
  | .sync => h.phase = .response
  | .info => h.phase = .response
  | .erase => h.phase = .response
  | .write => h.phase = .response
  | .sealImage => h.phase = .response

/-- R180: one step of the host. After `DONE` and after a fatal error it does nothing more (R191). -/
def hostStep (s : State) : Result :=
  match s.host.progress with
  | .done => .next s
  | .failed _ => .next s
  | .running step => if s.host.reading step then hostRead s else hostSend step s

/-- A failed `write` of a command: `TransportError`, but in Go, which "cannot itself fail the session" (R189, R195). `k` bytes
of the frame had left (assumption log 7). -/
def HostSide.failWrite (step : HStep) (bs : List Byte) (k : Nat) (h : HostSide) : HostSide :=
  match step with
  | .go => { h with tx := h.tx ++ bs.take k, progress := .done }
  | .sync | .info | .pad | .bounds | .erase | .write | .sealImage =>
    { h.fail (.transportError step) with tx := h.tx ++ bs.take k }

/-- The status bytes that the first read of R190 has taken when the second fails. -/
def HostSide.statusRead (h : HostSide) : Nat := if 4 ≤ h.unread.length then 4 else 0

/-- A failed `read`: a failed attempt in the Sync step (R182), `TransportError` elsewhere (R195). Of the bytes that had arrived for
it, `k` are consumed (X15: "any value"), beside the status where that had been read. -/
def HostSide.failRead (step : HStep) (k : Nat) (h : HostSide) : HostSide :=
  let h1 := h.advance (h.statusRead + min k (h.unread.length - h.statusRead))
  match step with
  | .sync => h1.attemptFailed
  | .info | .pad | .bounds | .erase | .write | .sealImage | .go => h1.fail (.transportError step)

/-- A Transport failure while the sequence is at a step: it meets a read that waits, or the `write` of the next command. -/
def HostSide.failIn (step : HStep) (k : Nat) (h : HostSide) : HostSide :=
  if h.reading step then
    match h.sent with
    | some cmd => if h.unread.length < h.respLen cmd then h.failRead step k else h
    | none => h
  else
    match h.next step with
    | .send h1 st cmd =>
      match encode cmd with
      | some bs => h1.failWrite st bs k
      | none => h
    | .stop _ => h
    | .refuse _ => h

/-- R195: a Transport failure on the host side. -/
def hostFail (k : Nat) (s : State) : State :=
  match s.host.progress with
  | .done => s
  | .failed _ => s
  | .running step => s.withHost (s.host.failIn step k)

end Sys2Proof.Machine
end

