-- ==== Sys2Proof/Machine/Sequencer.lean ====
section
/-! DEFINITION. Unit U5 SEQ, the receive sequencer: one step of the device side for each of the seven states
(spec/42_sequencer.md R140 to R149), fetching an instruction from the receive stream among them. -/

namespace Sys2Proof.Machine

/-- Byte `i` of the Sync tag (R141). -/
def syncTagByte (i : Fin 4) : Byte :=
  if i = 0 then Opcode.sync.tag.b0 else if i = 1 then Opcode.sync.tag.b1
  else if i = 2 then Opcode.sync.tag.b2 else Opcode.sync.tag.b3

/-- R141: the sync matcher on one byte; a byte that breaks a partial match is examined again as a first byte (decision D4). -/
def State.syncByte (b : Byte) (s : State) : State :=
  if b = syncTagByte s.syncIdx then
    if s.syncIdx = 3 then s.acceptSync else { s with syncIdx := s.syncIdx + 1 }
  else if b = syncTagByte 0 then { s with syncIdx := 1 }
  else { s with syncIdx := 0 }

/-- R141 WAIT_SYNC. Without a byte the device holds (R148). -/
def stepWaitSync (s : State) : Result :=
  match s.rxRead 1 with
  | some (b :: _, s1) => .next (s1.syncByte b)
  | some ([], _) => .next s
  | none => .next s

/-- R142 READ_OPCODE: a tag of the table goes on to READ_ARGS; a status tag is run as the instruction it is, and any other
value raises. -/
def stepReadOpcode (s : State) : Result :=
  match s.rxRead 4 with
  | some ([b0, b1, b2, b3], s1) =>
    let t : Tag := ⟨b0, b1, b2, b3⟩
    let s2 : State := { s1 with opcode := some t }
    match opcodeOf t with
    | some _ => .next { s2 with st := .readArgs }
    | none =>
      match statusOf t with
      | some st => exec (statusInstr st) s2
      | none => .next s2.raise
  | some (_, _) => .next s
  | none => .next s

/-- R143 READ_ARGS. -/
def stepReadArgs (s : State) : Result :=
  match s.heldOpcode with
  | .error e => .fault e
  | .ok op =>
    match s.rxRead (4 * op.nargs) with
    | some (raw, s1) => .next { s1 with arg := .write (argsOf raw), st := .readData }
    | none => .next s

/-- R144 READ_DATA: "reads exactly `arg[1]` bytes however many that is". -/
def stepReadData (s : State) : Result :=
  match s.heldOpcode with
  | .error e => .fault e
  | .ok op =>
    if op.hasPayload then
      match s.rxRead s.arg.read1.toNat with
      | some (bytes, s1) => .next { s1 with data := bytes, st := .handle }
      | none => .next s
    else .next { s with data := [], st := .handle }

/-- R145 HANDLE: the command that the registers hold is run. -/
def stepHandle (s : State) : Result :=
  match s.heldInstr with
  | .error e => .fault e
  | .ok i => exec i s

/-- The bytes of the queued status. -/
def queuedBytes : Option Status → List Byte
  | some st => st.tag.bytes
  | none => []

/-- R146 ERROR: the queued `ERR!` is written and the session registers return to their reset values. -/
def stepError (s : State) : Result := .next (s.txWrite (queuedBytes s.errQueued)).sessionReset

/-- R140: one step of the device side. In END "The device agent has no step" (R147): nothing changes. -/
def deviceStep (s : State) : Result :=
  match s.st with
  | .waitSync => stepWaitSync s
  | .readOpcode => stepReadOpcode s
  | .readArgs => stepReadArgs s
  | .readData => stepReadData s
  | .handle => stepHandle s
  | .error => stepError s
  | .ended _ => .next s

/-- How many bytes the next step of the device side reads from the receive stream (R26); none in a state that reads nothing. -/
def State.wants (s : State) : Option Nat :=
  match s.st with
  | .waitSync => some 1
  | .readOpcode => some 4
  | .readArgs =>
    match s.heldOpcode with
    | .ok op => some (4 * op.nargs)
    | .error _ => none
  | .readData =>
    match s.heldOpcode with
    | .ok op => if op.hasPayload then some s.arg.read1.toNat else some 0
    | .error _ => none
  | .handle => none
  | .error => none
  | .ended _ => none

/-- Whether the device side waits in `RxRead`: it wants more bytes than are there (R148). -/
def State.waiting (s : State) : Bool :=
  match s.wants with
  | some n => decide (s.unread.length < n)
  | none => false

/-- Whether the next byte completes the Sync tag, so that WAIT_SYNC will write `PICO` (R141). -/
def State.completesSync (s : State) : Bool :=
  decide (s.st = .waitSync) && decide (s.syncIdx = 3) && decide (s.unread.head? = some (syncTagByte 3))

/-- R149: a Transport failure ends the session when it meets a read that waits, or a `TxWrite`: that of a completed match (whose
byte is consumed), of HANDLE or of ERROR. "it writes nothing; ... the command that was being received has no effect." A
failure that meets neither is not seen (R206). Assumption log 7. What `sync_idx` holds after the failed write of `PICO` the spec
does not say (R141 counts to 4 before the write, R25 allows 0 to 3): it stays at 3, DESIGN CHOICE, assumption log 28. -/
def deviceFail (s : State) : State :=
  if s.waiting then s.endByTransport
  else if s.completesSync then { s.endByTransport with rxPos := s.rxPos + 1 }
  else if s.st = .handle then s.endByTransport
  else if s.st = .error then s.endByTransport
  else s

end Sys2Proof.Machine
end

