-- ==== Sys2Proof/Machine/Agents.lean ====
section
/-! DEFINITION. The Transport's moves (spec/20_memory.md R53, R54) and one move of any agent (spec/10_state.md R20). -/

namespace Sys2Proof.Machine

/-- The next `n` bytes of the host's transmit stream arrive in `rx` (R54: "in the order they were written"). -/
def State.deliver (n : Nat) (s : State) : State :=
  { s with
    rx := s.rx ++ s.host.untaken.take n
    host := { s.host with txTaken := s.host.txTaken + (s.host.untaken.take n).length } }

/-- The next `n` bytes of `tx` arrive at the host. -/
def State.deliverBack (n : Nat) (s : State) : State :=
  { s with
    txTaken := s.txTaken + ((s.tx.drop s.txTaken).take n).length
    host := { s.host with rx := s.host.rx ++ (s.tx.drop s.txTaken).take n } }

/-- Bytes arrive in `rx`. -/
def State.arrive (bs : List Byte) (s : State) : State := { s with rx := s.rx ++ bs }

/-- The next `n` bytes of the host's transmit stream are taken, and `bs` arrives in their stead (D26). -/
def State.corrupt (n : Nat) (bs : List Byte) (s : State) : State :=
  { s with
    rx := s.rx ++ bs
    host := { s.host with txTaken := s.host.txTaken + (s.host.untaken.take n).length } }

/-- R230: session creation; the moves to come stay. -/
def State.renew (p : Params) (s : State) : State := { State.create p with agenda := s.agenda }

/-- R244: "a second flashing session reuses the same Transport": a host whose run is over begins a new one (R39, last row; R182)
on the streams as they are, so that what it never read is read now. A host that is still running goes on. Assumption log 27. -/
def State.newFlashing (image : Image) (maxSyncAttempts : Nat) (s : State) : State :=
  if s.host.over then s.withHost (s.host.restart image maxSyncAttempts) else s

/-- One move of one agent. -/
def runMove (m : Move) (s : State) : Result :=
  match m with
  | .device => deviceStep s
  | .host => hostStep s
  | .deliver n => .next (s.deliver n)
  | .deliverBack n => .next (s.deliverBack n)
  | .arrive bs => .next (s.arrive bs)
  | .corrupt n bs => .next (s.corrupt n bs)
  | .failDevice => .next (deviceFail s)
  | .failHost k => .next (hostFail k s)
  | .newSession p => .next (s.renew p)
  | .newFlashing image n => .next (s.newFlashing image n)

/-- One step: the move at the head of the agenda, which is then taken off. -/
def oneStep (s : State) : Result := mapNext State.popAgenda (runMove s.mover s)

/-- The instruction whose bits are `w` placed where the next step runs it: a command in the registers that HANDLE reads, any
other tag in the receive stream where READ_OPCODE reads it; the device side moves next (assumption log 4). -/
def State.placeWord (s : State) (nbits w : Nat) : State :=
  let ready : State := { s with agenda := [], hasSynced := true, syncIdx := 0, errQueued := none }
  match decodeCmd (tableBytes nbits w) with
  | .frame i _ => ready.load i
  | .unknownOpcode _ =>
    { ready with st := .readOpcode, rx := s.rx.take s.rxPos ++ tableBytes nbits w, rxPos := (s.rx.take s.rxPos).length }
  | .incomplete => ready

end Sys2Proof.Machine
end

