-- ==== Sys2Proof/Machine/Step.lean ====
section
/-! DEFINITION. One step of the machine, and where a word of the opcode table is placed so that the next step runs it. -/

namespace Sys2Proof.Machine

/-- One step: the next move of the agenda, a device step where the agenda is empty. -/
def step (s : State) : Host.Outcome State Fault Refusal := oneStep s

/-- `s` with the instruction whose bits are `w` where the next step runs it. -/
def State.withFetchWord (s : State) (nbits w : Nat) : State := s.placeWord nbits w

end Sys2Proof.Machine
end

