-- ==== Sys2Proof/Safety.lean ====
section
/-! DEFINITION. What a good state and a good step are, in the terms the statements use: the invariant of the device session
(spec/10_state.md R25 to R28, R40, spec/20_memory.md R51), the invariant of the host side (R37, R180, R185, R190, R212), the
listed transitions of the sequencer (spec/42_sequencer.md R140), and what no command touches (spec/43_commands.md R160). -/

namespace Sys2Proof.Machine

/-- R27, R211: `has_synced` equals `st != WAIT_SYNC` for as long as `st` is not END; "in `END` it keeps the value 1". -/
def State.modeOk (s : State) : Bool :=
  match s.st with
  | .waitSync => !s.hasSynced
  | .readOpcode | .readArgs | .readData | .handle | .error | .ended _ => s.hasSynced

/-- The opcode whose tag the register `opcode` holds; none where it holds no value or a tag outside the table. -/
def State.tableOpcode (s : State) : Option Opcode := s.opcode.bind opcodeOf

/-- Whether `arg[0]` to `arg[n - 1]` each hold a value. -/
def ArgRegs.holds (n : Nat) (g : ArgRegs) : Bool := ([g.a0, g.a1, g.a2].take n).all Option.isSome

/-- R40: every register that the next step reads holds a value, and in HANDLE the registers hold a well-formed command. -/
def State.registersOk (s : State) : Bool :=
  match s.st, s.tableOpcode with
  | .readArgs, some _ => true
  | .readArgs, none => false
  | .readData, some op => s.arg.holds op.nargs
  | .readData, none => false
  | .handle, some op =>
    s.arg.holds op.nargs &&
      match s.heldInstr with
      | .ok i => i.isCommand && i.wellFormed
      | .error _ => false
  | .handle, none => false
  | .waitSync, _ | .readOpcode, _ | .error, _ | .ended _, _ => true

/-- The invariant of the device session. -/
structure State.SessionInv (s : State) : Prop where
  /-- R27. -/
  mode : s.modeOk = true
  /-- R28: "Between steps it holds `ERR!` exactly when `st == ERROR`." -/
  queued : s.errQueued = if s.st = .error then some .err else none
  /-- R25: a match in progress exists in WAIT_SYNC only (and stands where the session ended in it,
assumption log 28). -/
  matching : s.st = .waitSync ∨ (∃ why, s.st = .ended why) ∨ s.syncIdx = 0
  /-- R40. -/
  registers : s.registersOk = true
  /-- R26, R36: no byte is consumed that has not arrived. -/
  consumed : s.rxPos ≤ s.rx.length
  /-- R35: the Transport takes no byte that has not been written. -/
  taken : s.txTaken ≤ s.tx.length
  /-- The flash is in its canonical form. -/
  flashWf : s.flash.wf = true
  /-- R51: nothing is stored at an address that is not populated. -/
  flashPopulated : ∀ c ∈ s.flash.cells, s.populated c.1 = true

/-- The host's steps in the order of R180; 8 for `DONE`. A failed host has no place in it. -/
def HProgress.rank : HProgress → Option Nat
  | .running .sync => some 0
  | .running .info => some 1
  | .running .pad => some 2
  | .running .bounds => some 3
  | .running .erase => some 4
  | .running .write => some 5
  | .running .sealImage => some 6
  | .running .go => some 7
  | .done => some 8
  | .failed _ => none

/-- The commands a step of the host sends (R182, R183, R186 to R189). -/
def HStep.sends : HStep → Instr → Bool
  | .sync, .sync => true
  | .info, .info => true
  | .erase, .eras _ _ => true
  | .write, .writ _ _ _ => true
  | .sealImage, .sealImage _ _ _ => true
  | .go, .gogo _ => true
  | _, _ => false

/-- The invariant of the host side. -/
structure HostSide.Inv (h : HostSide) : Prop where
  /-- R212: "never beyond MAX_SYNC_ATTEMPTS". -/
  attempts : h.attempts ≤ h.maxAttempts
  /-- R36: the host reads no byte that has not arrived. -/
  consumed : h.rxPos ≤ h.rx.length
  /-- The Transport takes no byte that the host has not written. -/
  taken : h.txTaken ≤ h.tx.length
  /-- R37: has-synced is 0 until Sync succeeds, and 1 after it. -/
  synced : ∀ n, h.progress.rank = some n → (h.synced = true ↔ 1 ≤ n)
  /-- R37: the geometry is known after Info. -/
  dev : ∀ n, h.progress.rank = some n → 2 ≤ n → h.dev.isSome = true
  /-- R37, R184: the padded data stands from the Pad step on, under granularities above zero (R181 b). -/
  padded : ∀ n, h.progress.rank = some n → 3 ≤ n →
    ∃ dev, h.dev = some dev ∧ dev.writeSize ≠ 0 ∧ dev.eraseSize ≠ 0 ∧ dev.maxDataLen ≠ 0
      ∧ h.padded = some (padTo dev.writeSize.toNat h.image.data)
  /-- R185: a command that changes the flash, or `SEAL` or `GOGO`, is sent only by a host whose image passed the bounds check. -/
  inBounds : ∀ n, h.progress.rank = some n → 4 ≤ n →
    ∀ dev padded, h.dev = some dev → h.padded = some padded → imageOutOfBounds h.image.addr padded.length dev = false
  /-- R190: a host that awaits a response awaits that of a command of its step. -/
  awaited : ∀ step, h.progress = .running step → h.phase ≠ .send → ∃ cmd, h.sent = some cmd ∧ step.sends cmd = true

/-- The step goes to `st`, consumes `n` bytes and writes `bs` (the columns of R140's table). -/
def State.Moves (s t : State) (st : SeqState) (n : Nat) (bs : List Byte) : Prop :=
  t.st = st ∧ t.rxPos = s.rxPos + n ∧ t.tx = s.tx ++ bs

/-- The tag at the front of the unread bytes. -/
def State.tagAhead (s : State) : Option Tag := (takeTag s.unread).map fun p => p.1

/-- R140: the transitions that a device step makes, row by row; the row of a failed handler is taken by none (R160). -/
def State.DeviceTransition (s t : State) : Prop :=
  (s.st = .waitSync ∧ s.unread ≠ [] ∧ s.completesSync = false ∧ s.Moves t .waitSync 1 [])
  ∨ (s.st = .waitSync ∧ s.completesSync = true ∧ s.Moves t .readOpcode 1 [0x50, 0x49, 0x43, 0x4F])
  ∨ (s.st = .readOpcode ∧ (∃ tag op, s.tagAhead = some tag ∧ opcodeOf tag = some op) ∧ s.Moves t .readArgs 4 [])
  ∨ (s.st = .readOpcode ∧ (∃ tag, s.tagAhead = some tag ∧ opcodeOf tag = none) ∧ s.Moves t .error 4 [])
  ∨ (∃ op : Opcode, s.st = .readArgs ∧ s.opcode = some op.tag ∧ s.Moves t .readData (4 * op.nargs) [])
  ∨ (∃ n, s.st = .readData ∧ s.opcode = some Opcode.writ.tag ∧ s.arg.a1 = some n ∧ s.Moves t .handle n.toNat [])
  ∨ (∃ op : Opcode, s.st = .readData ∧ s.opcode = some op.tag ∧ op ≠ .writ ∧ s.Moves t .handle 0 [])
  ∨ (∃ (op : Opcode) (r : Response), s.st = .handle ∧ s.opcode = some op.tag ∧ op ≠ .gogo ∧ r.status ≠ .err ∧ s.Moves t .readOpcode 0 (encodeResp r))
  ∨ (s.st = .handle ∧ s.opcode = some Opcode.gogo.tag ∧ s.Moves t (.ended .byGo) 0 [0x4F, 0x4B, 0x4F, 0x4B])
  ∨ (s.st = .error ∧ s.Moves t .waitSync 0 [0x45, 0x52, 0x52, 0x21])

/-- What no command changes (R150, R160): everything but `st`, the response registers, the transmit stream, and (for `ERAS`
and `WRIT`) the flash and the checksum accumulator. -/
structure State.CommandFrame (s t : State) : Prop where
  syncIdx   : t.syncIdx = s.syncIdx
  opcode    : t.opcode = s.opcode
  arg       : t.arg = s.arg
  data      : t.data = s.data
  hasSynced : t.hasSynced = s.hasSynced
  errQueued : t.errQueued = s.errQueued
  geom      : t.geom = s.geom
  rx        : t.rx = s.rx
  rxPos     : t.rxPos = s.rxPos
  txTaken   : t.txTaken = s.txTaken
  host      : t.host = s.host
  agenda    : t.agenda = s.agenda

/-- What a step of the host does not change: the whole device side and both ends of the Transport there. -/
def State.SameDevice (s t : State) : Prop := t = { s with host := t.host }

end Sys2Proof.Machine
end

