-- ==== Sys2Proof/Certificates/Slice0/Obligations.lean ====
section
/-! DEFINITION. The statements for the provers. Each docstring names the rule of spec/ it formalises, and what of it is the
model's own choice (a log entry of notes/assumptions). In all of them `agenda` is the model's own field (log entry 1), the
host's `phase`, `cursor`, `sent` and the counters `txTaken` are the model's rendering (log entry 24), and that a command leaves
the response registers it does not write is log entry 11. -/

open Sys2Proof
open Sys2Proof.Machine

/-! ### U1 LE32, U2 CRC32, U3 VALID, ALIGN -/

/-- R100: byte `i` of `enc32(v)` is bits `8i+7` down to `8i`: the least significant byte first. -/
def Obligations.Enc32LeastSignificantByteFirst : Prop :=
  ∀ v : Word, (enc32 v).map BitVec.toNat
    = [v.toNat % 256, v.toNat / 256 % 256, v.toNat / 65536 % 256, v.toNat / 16777216]

/-- R101, R102: `dec32` is the unsigned little-endian sum; distinct four-byte sequences give distinct values; `enc32` and `dec32`
are inverse bijections. -/
def Obligations.Dec32IsLittleEndianSumAndInvertsEnc32 : Prop :=
  (∀ b0 b1 b2 b3 : Byte,
    (dec32 b0 b1 b2 b3).toNat = b0.toNat + 256 * b1.toNat + 65536 * b2.toNat + 16777216 * b3.toNat)
  ∧ (∀ b0 b1 b2 b3 c0 c1 c2 c3 : Byte,
    dec32 b0 b1 b2 b3 = dec32 c0 c1 c2 c3 → b0 = c0 ∧ b1 = c1 ∧ b2 = c2 ∧ b3 = c3)
  ∧ (∀ v : Word, ∃ b0 b1 b2 b3, enc32 v = [b0, b1, b2, b3] ∧ dec32 b0 b1 b2 b3 = v)
  ∧ ∀ b0 b1 b2 b3 : Byte, enc32 (dec32 b0 b1 b2 b3) = [b0, b1, b2, b3]

/-- R106 and the values of spec/95_test_vectors.md 2.2 (general knowledge GK1, GK4; log entry 5); R108 law 1: the accumulator
register of U2, fed a message in two parts, ends at the one-shot checksum. -/
def Obligations.CrcOfKnownMessagesAndStreaming : Prop :=
  crc32 [] = 0x00000000 ∧ crc32 [0x00] = 0xD202EF8D ∧ crc32 [0xFF] = 0xFF000000
  ∧ crc32 [0x31, 0x32, 0x33, 0x34, 0x35, 0x36, 0x37, 0x38, 0x39] = 0xCBF43926
  ∧ crc32 [0xDE, 0xAD, 0xBE, 0xEF] = 0x7C9CA35A
  ∧ ∀ (s : State) (a b : List Byte), crcFinal ((s.crcInit.crcUpdate a).crcUpdate b).crcAcc = crc32 (a ++ b)

/-- R107: the table form agrees with the loop of R105 on every accumulator and byte, and the entries are those listed. -/
def Obligations.CrcTableFormAgreesWithLoop : Prop :=
  (∀ (acc : Word) (b : Byte), crcByte acc b = crcTable ((acc ^^^ b.setWidth 32).setWidth 8) ^^^ (acc >>> 8))
  ∧ (List.range 16).map (fun n => crcTable (BitVec.ofNat 8 n))
    = [0x00000000, 0x77073096, 0xEE0E612C, 0x990951BA, 0x076DC419, 0x706AF48F, 0xE963A535, 0x9E6495A3,
       0x0EDB8832, 0x79DCB8A4, 0xE0D5E91E, 0x97D2D988, 0x09B64C2B, 0x7EB17CBD, 0xE7B82D07, 0x90BF1D91]
  ∧ crcTable 128 = 0xEDB88320 ∧ crcTable 255 = 0x2D02EF8D

/-- R108 law 3: messages of one length that differ in exactly one byte have different checksums. -/
def Obligations.CrcDetectsOneChangedByte : Prop :=
  ∀ (a c : List Byte) (b b' : Byte), b ≠ b' → crc32 (a ++ b :: c) ≠ crc32 (a ++ b' :: c)

/-- R108 law 4: a message followed by its checksum, little-endian, has the residue 0x2144DF1C. -/
def Obligations.CrcResidueIsConstant : Prop :=
  ∀ m : List Byte, crc32 (m ++ enc32 (crc32 m)) = 0x2144DF1C

/-- R110: `CRC_CHECK(e, m)` is 1 exactly when `e` is the checksum, so for exactly one `e` per `m`. -/
def Obligations.CrcCheckAcceptsExactlyOneChecksum : Prop :=
  ∀ m : List Byte, (∀ e, crcCheck e m = true ↔ crc32 m = e) ∧ ∃! e, crcCheck e m = true

/-- R112, R113: the laws of `align` for every positive `n`. -/
def Obligations.AlignRoundsUpToMultiple : Prop :=
  ∀ n : Nat, 0 < n →
    align 0 n = 0 ∧ align n n = n ∧ align (n + 1) n = 2 * n
    ∧ ∀ v : Nat, v ≤ align v n ∧ align v n - v < n ∧ n ∣ align v n ∧ (align v n = v ↔ n ∣ v)
        ∧ align (align v n) n = align v n ∧ align v 1 = v

/-! ### U4 FRAME -/

/-- R125: every well-formed command has an encoding, and the device's decoder inverts it, whatever bytes follow. -/
def Obligations.CommandDecodeInvertsEncode : Prop :=
  ∀ i : Instr, i.isCommand = true → i.wellFormed = true →
    ∃ bs, encode i = some bs ∧ ∀ rest, decodeCmd (bs ++ rest) = .frame i rest

/-- R125, the other direction: a decoded frame is well formed, and encoding it gives back the bytes consumed. -/
def Obligations.DecodedFrameReencodesToItsBytes : Prop :=
  ∀ (bs rest : List Byte) (i : Instr), decodeCmd bs = .frame i rest →
    ∃ p, encode i = some p ∧ p ++ rest = bs ∧ i.isCommand = true ∧ i.wellFormed = true

/-- R125: the response decoder inverts the response encoder on every response whose shape fits the command. -/
def Obligations.ResponseDecodeInvertsEncode : Prop :=
  ∀ (cmd : Instr) (r : Response), cmd.isCommand = true →
    (r.status = .okok ∧ r.rargs.length = respArgCount cmd ∧ r.rdata.length = respPayloadLen cmd
      ∨ r.status ≠ .okok ∧ r.rargs = [] ∧ r.rdata = []) →
    decodeResp cmd (encodeResp r) = .response r

/-- R126: no encoded command is a prefix of another. -/
def Obligations.EncodedCommandsArePrefixFree : Prop :=
  ∀ (i j : Instr) (p q : List Byte), i.isCommand = true → j.isCommand = true → encode i = some p → encode j = some q →
    p <+: q → i = j

/-- R83, R82: the five command formats, their fields in order and their lengths, with the tag bytes of R81 (ASCII: general
knowledge GK2, decision D3 of the spec; log entry 13); R121: a `WRIT` whose payload is not of its announced length has no
encoding. -/
def Obligations.CommandFormatsAndLengths : Prop :=
  encode .sync = some [0x53, 0x59, 0x4E, 0x43] ∧ encode .info = some [0x49, 0x4E, 0x46, 0x4F]
  ∧ (∀ a, ∃ bs, encode (.gogo a) = some bs ∧ bs = [0x47, 0x4F, 0x47, 0x4F] ++ enc32 a ∧ bs.length = 8)
  ∧ (∀ a n, ∃ bs, encode (.read a n) = some bs ∧ bs = [0x52, 0x45, 0x41, 0x44] ++ enc32 a ++ enc32 n ∧ bs.length = 12)
  ∧ (∀ a n, ∃ bs, encode (.eras a n) = some bs ∧ bs = [0x45, 0x52, 0x41, 0x53] ++ enc32 a ++ enc32 n ∧ bs.length = 12)
  ∧ (∀ a n d, d.length = n.toNat →
      ∃ bs, encode (.writ a n d) = some bs ∧ bs = [0x57, 0x52, 0x49, 0x54] ++ enc32 a ++ enc32 n ++ d
        ∧ bs.length = 12 + n.toNat)
  ∧ (∀ a n d, d.length ≠ n.toNat → encode (.writ a n d) = none)
  ∧ (∀ a n c, ∃ bs, encode (.sealImage a n c) = some bs
      ∧ bs = [0x53, 0x45, 0x41, 0x4C] ++ enc32 a ++ enc32 n ++ enc32 c ∧ bs.length = 16)

/-- R92, R122: a tag that is not one of the seven is an unknown opcode and only its four bytes are consumed; the three status
tags are such. -/
def Obligations.UnknownTagConsumesFourBytes : Prop :=
  (∀ (t : Tag) (rest : List Byte), (∀ op : Opcode, op.tag ≠ t) → decodeCmd (t.bytes ++ rest) = .unknownOpcode rest)
  ∧ ∀ (st : Status) (op : Opcode), op.tag ≠ st.tag

/-- Seven words numbered as spec/opcode_table.json numbers them (R98), the last of them no row of it, and four frames of
spec/95_test_vectors.md 2.4, decoded. A sanity statement. The model's own in it: that the word of `GOGO`, which has no bits for an
operand, is `gogo 0`, its operand bytes being zero, is log entry 19 (DEDUCED); that a status word is decoded to the instruction of
its row (`okok [] []`, `err`, `pico`) is log entry 2 (DEDUCED), the device's own decoder using the command rows only (R98). The
ASCII codes of the tags are log entry 13 (PRESUMED). -/
def Obligations.TableWordsAndFramesDecode : Prop :=
  decodeTableWord 32 0x53594E43 = some .sync ∧ decodeTableWord 32 0x494E464F = some .info
  ∧ decodeTableWord 32 0x474F474F = some (.gogo 0) ∧ decodeTableWord 32 0x4F4B4F4B = some (.okok [] [])
  ∧ decodeTableWord 32 0x45525221 = some .err ∧ decodeTableWord 32 0x5049434F = some .pico
  ∧ decodeTableWord 32 0x73796E63 = none
  ∧ decodeCmd [0x45, 0x52, 0x41, 0x53, 0x00, 0x00, 0x00, 0x10, 0x00, 0x10, 0x00, 0x00]
      = .frame (.eras 0x10000000 4096) []
  ∧ decodeCmd [0x52, 0x45, 0x41, 0x44, 0x0E, 0x00, 0x00, 0x10, 0x08, 0x00, 0x00, 0x00, 0xAA]
      = .frame (.read 0x1000000E 8) [0xAA]
  ∧ decodeCmd [0x57, 0x52, 0x49, 0x54, 0x00, 0x00, 0x00, 0x10, 0x04, 0x00, 0x00, 0x00, 0x53, 0x59, 0x4E, 0x43]
      = .frame (.writ 0x10000000 4 [0x53, 0x59, 0x4E, 0x43]) []
  ∧ decodeCmd [0x53, 0x45, 0x41, 0x4C, 0x00, 0x00, 0x00, 0x10, 0x00, 0x02, 0x00, 0x00, 0xEC, 0xBA, 0xCF, 0xCF]
      = .frame (.sealImage 0x10000000 512 0xCFCFBAEC) []

/-! ### U5 SEQ: the states of the sequencer -/

/-- R141: WAIT_SYNC on one byte (the byte that breaks a partial match is examined again: decision D4 of the spec). -/
def Obligations.WaitSyncMatchesByteByByte : Prop :=
  ∀ (s : State) (b : Byte) (rest : List Byte), s.mover = .device → s.st = .waitSync → s.unread = b :: rest →
    let s1 : State := { s with rxPos := s.rxPos + 1, agenda := s.agenda.tail }
    (∀ i : Fin 4, s.syncIdx = i → b = [0x53, 0x59, 0x4E, 0x43][i] → i ≠ 3 →
        step s = .next { s1 with syncIdx := i + 1 })
    ∧ (s.syncIdx = 3 → b = 0x43 →
        step s = .next { s1 with tx := s.tx ++ [0x50, 0x49, 0x43, 0x4F], hasSynced := true, syncIdx := 0, st := .readOpcode })
    ∧ (∀ i : Fin 4, s.syncIdx = i → b ≠ [0x53, 0x59, 0x4E, 0x43][i] →
        step s = .next { s1 with syncIdx := if b = 0x53 then 1 else 0 })

/-- R141: "the state acknowledges at the first position where the last four bytes received are `53 59 4E 43`, for every
input" (decision D4 of the spec). From WAIT_SYNC with no match in progress, over bytes no proper prefix of which ends with the
tag: the device is in READ_OPCODE after the last byte exactly if the bytes end with the tag; then `PICO` is written, and
nothing otherwise. -/
def Obligations.SyncAcknowledgedAtFirstFullTag : Prop :=
  ∀ (s : State) (bs : List Byte), s.agenda = [] → s.st = .waitSync → s.syncIdx = 0 → s.unread = bs →
    (∀ p, p <+: bs → p ≠ bs → ¬ [0x53, 0x59, 0x4E, 0x43] <:+ p) →
    ∃ t, core.run bs.length s = .next t ∧ t.rxPos = s.rxPos + bs.length ∧ t.flash = s.flash
      ∧ (if [0x53, 0x59, 0x4E, 0x43] <:+ bs
         then t.st = .readOpcode ∧ t.hasSynced = true ∧ t.tx = s.tx ++ [0x50, 0x49, 0x43, 0x4F]
         else t.st = .waitSync ∧ t.tx = s.tx)

/-- R142: READ_OPCODE reads four bytes; a tag of the table goes to READ_ARGS, any other value queues `ERR!` and goes to ERROR. -/
def Obligations.ReadOpcodeLooksUpTag : Prop :=
  ∀ (s : State) (t : Tag) (rest : List Byte), s.mover = .device → s.st = .readOpcode → s.unread = t.bytes ++ rest →
    let s1 : State := { s with rxPos := s.rxPos + 4, opcode := some t, agenda := s.agenda.tail }
    ((∃ op : Opcode, op.tag = t) → step s = .next { s1 with st := .readArgs })
    ∧ ((∀ op : Opcode, op.tag ≠ t) → step s = .next { s1 with st := .error, errQueued := some .err })

/-- R143: READ_ARGS reads `4 * nargs` bytes as little-endian arguments into `arg[0]` to `arg[nargs - 1]`; R22: the others are left
holding no value (log entry 9). -/
def Obligations.ReadArgsTakesLittleEndianArguments : Prop :=
  ∀ (s : State) (op : Opcode) (ws : List Word) (rest : List Byte), s.mover = .device → s.st = .readArgs →
    s.opcode = some op.tag → ws.length = op.nargs → s.unread = ws.flatMap enc32 ++ rest →
    step s = .next
      { s with
        rxPos := s.rxPos + 4 * op.nargs
        st := .readData
        agenda := s.agenda.tail
        arg := { a0 := ws[0]?, a1 := ws[1]?, a2 := ws[2]? } }

/-- R144: READ_DATA reads exactly `arg[1]` bytes for `WRIT`, however many that is (decision D11 of the spec); for every other
opcode the data is empty and nothing is read. -/
def Obligations.ReadDataTakesExactlyArg1Bytes : Prop :=
  ∀ s : State, s.mover = .device → s.st = .readData →
    (∀ n : Word, s.opcode = some Opcode.writ.tag → s.arg.a1 = some n → n.toNat ≤ s.unread.length →
      step s = .next
        { s with rxPos := s.rxPos + n.toNat, data := s.unread.take n.toNat, st := .handle, agenda := s.agenda.tail })
    ∧ (∀ op : Opcode, s.opcode = some op.tag → op ≠ .writ →
      step s = .next { s with data := [], st := .handle, agenda := s.agenda.tail })

/-- R148: a read that finds fewer bytes than it wants holds: nothing changes, not a part of the bytes is consumed (decision D19
of the spec; that a hold is a step to the same state is the model's choice, log entry 6). -/
def Obligations.ReadHoldsUntilItsBytesArrive : Prop :=
  ∀ s : State, s.mover = .device →
    (s.st = .waitSync ∧ s.unread.length < 1
      ∨ s.st = .readOpcode ∧ s.unread.length < 4
      ∨ (∃ op : Opcode, s.st = .readArgs ∧ s.opcode = some op.tag ∧ s.unread.length < 4 * op.nargs)
      ∨ (∃ n : Word, s.st = .readData ∧ s.opcode = some Opcode.writ.tag ∧ s.arg.a1 = some n ∧ s.unread.length < n.toNat)) →
    step s = .next { s with agenda := s.agenda.tail }

/-- R145: HANDLE runs the command that the registers hold, whatever well-formed command it is. A step is `exec` of the held
instruction, with the move taken off the agenda. -/
def Obligations.HandleStepRunsHeldInstruction : Prop :=
  (∀ (s : State) (i : Instr), s.mover = .device → s.st = .handle → s.heldInstr = .ok i →
    step s = mapNext State.popAgenda (exec i s))
  ∧ ∀ (s : State) (i : Instr), i.isCommand = true → i.wellFormed = true → (s.load i).heldInstr = .ok i

/-- R122, R142 to R145: from READ_OPCODE, with a whole frame unread, three steps of the device bring its command into the
registers and consume exactly the frame, and the fourth is `exec` of it. -/
def Obligations.FetchedFrameRunsItsCommand : Prop :=
  ∀ (s : State) (i : Instr) (bs rest : List Byte), s.agenda = [] → s.st = .readOpcode → i.isCommand = true →
    encode i = some bs → s.unread = bs ++ rest →
    let t : State := { s.load i with rxPos := s.rxPos + bs.length }
    core.run 3 s = .next t ∧ t.unread = rest ∧ step t = exec i t

/-- R92, R142, R202: a status tag that arrives in READ_OPCODE takes the error of cause E1. The spec has it an unknown opcode at the
device (R98); that the step runs it as the instruction of its row is the model's choice (log entry 2, DEDUCED). -/
def Obligations.StatusTagStepTakesUnknownOpcodeError : Prop :=
  ∀ (s : State) (st : Status) (rest : List Byte), s.mover = .device → s.st = .readOpcode →
    s.unread = st.tag.bytes ++ rest →
    let s1 : State := { s with rxPos := s.rxPos + 4, opcode := some st.tag }
    step s = mapNext State.popAgenda (exec (statusInstr st) s1)
    ∧ exec (statusInstr st) s1 = .next { s1 with errQueued := some .err, st := .error }

/-- R146: ERROR writes the queued `ERR!` and resets the session registers; the flash, the geometry, `rx_pos` and the unread
bytes are not touched (that this is the scope of the reset is decision D20 of the spec, "the spec's choice" in R207; log entry
12). -/
def Obligations.ErrorStateReportsAndResets : Prop :=
  ∀ s : State, s.mover = .device → s.st = .error → s.errQueued = some .err →
    step s = .next
      { s with
        tx := s.tx ++ [0x45, 0x52, 0x52, 0x21]
        st := .waitSync
        syncIdx := 0
        hasSynced := false
        errQueued := none
        opcode := none
        arg := { a0 := none, a1 := none, a2 := none }
        data := []
        resp := { status := none, r0 := none, r1 := none, r2 := none, r3 := none, r4 := none, data := none }
        agenda := s.agenda.tail }

/-- R147: in END the device side reads nothing, writes nothing and stays (that this is a step to the same state is the model's
choice, log entry 6). -/
def Obligations.EndedSessionStays : Prop :=
  ∀ (s : State) (why : EndReason), s.mover = .device → s.st = .ended why →
    step s = .next { s with agenda := s.agenda.tail }

/-- R140: under the session invariant a device step makes one of the listed transitions, with the bytes consumed and written
that its row gives, or holds (R148) or stays in END; a move of another agent leaves `st` as it is, but for a Transport
failure, which may take it to END with nothing written, and for the creation of a session. -/
def Obligations.OnlyListedTransitionsAreTaken : Prop :=
  ∀ s t : State, s.SessionInv → step s = .next t →
    (s.mover = .device → s.DeviceTransition t ∨ (s.waiting = true ∨ ∃ why, s.st = .ended why) ∧ t = s.popAgenda)
    ∧ (s.mover = .failDevice → t.tx = s.tx ∧ (t.st = s.st ∨ t.st = .ended .byTransport ∧ ∀ why, s.st ≠ .ended why))
    ∧ (s.mover ≠ .device → s.mover ≠ .failDevice → (∀ p, s.mover ≠ .newSession p) → t.st = s.st)

/-- A Transport failure, at either side.
The device (R149, decision D15 of the spec): it ends a session that waits in a read, or that is about to write (HANDLE, ERROR):
`ended_by_transport`, nothing written, the flash as it was; so too the write of `PICO`, whose byte has been consumed; a failure
that meets neither is not seen (R206). That a failed `TxWrite` leaves the command without effect is DEDUCED, log entry 7; that
`has_synced` is 1 and nothing queued in END is R27 and R28, log entry 8; that `sync_idx` stays as it was, at 3 after the failed
write of `PICO`, is log entry 28 (DESIGN CHOICE).
The host (R195): a read that waits fails, `k` of the bytes there being consumed (X15), in Sync a failed attempt (R182), elsewhere
`TransportError`; the write of the next command fails with `k` of its bytes gone, `TransportError` but in Go, which ends `DONE`
(R189, decision D32); a host that is over sees nothing. How many bytes a record that is no command would await is log entry 30
(DESIGN CHOICE). -/
def Obligations.TransportFailureEndsSession : Prop :=
  (∀ s : State, s.mover = .failDevice →
    (s.waiting = true ∨ s.st = .handle ∨ s.st = .error →
      step s = .next { s with st := .ended .byTransport, errQueued := none, hasSynced := true, agenda := s.agenda.tail })
    ∧ (s.completesSync = true →
      step s = .next
        { s with
          rxPos := s.rxPos + 1, st := .ended .byTransport, errQueued := none, hasSynced := true, agenda := s.agenda.tail })
    ∧ (s.waiting = false → s.completesSync = false → s.st ≠ .handle → s.st ≠ .error →
      step s = .next { s with agenda := s.agenda.tail }))
  ∧ ∀ (s : State) (k : Nat), s.mover = .failHost k →
    (s.host.progress = .running .sync → s.host.phase = .response → s.host.sent = some .sync → s.host.unread.length < 4 →
      step s = .next
        { s with
          host :=
            if s.host.attempts < s.host.maxAttempts then
              { s.host with phase := .send, sent := none, rxPos := s.host.rxPos + min k s.host.unread.length }
            else
              { s.host with
                progress := .failed (.syncTimeout s.host.attempts), rxPos := s.host.rxPos + min k s.host.unread.length }
          agenda := s.agenda.tail })
    ∧ (∀ (st : HStep) (cmd : Instr), s.host.progress = .running st →
        (st = .info ∨ st = .erase ∨ st = .write ∨ st = .sealImage) → s.host.phase = .response → s.host.sent = some cmd →
        s.host.unread.length < s.host.respLen cmd →
        ∃ c, c ≤ s.host.unread.length ∧ (s.host.unread.length < 4 → c = min k s.host.unread.length)
          ∧ step s = .next
            { s with
              host := { s.host with progress := .failed (.transportError st), rxPos := s.host.rxPos + c }
              agenda := s.agenda.tail })
    ∧ (∀ (now st : HStep) (h : HostSide) (cmd : Instr) (bs : List Byte), s.host.progress = .running now →
        s.host.phase = .send → s.host.next now = .send h st cmd → encode cmd = some bs →
        step s = .next
          { s with
            host :=
              { h with
                tx := h.tx ++ bs.take k
                progress := if st = .go then .done else .failed (.transportError st) }
            agenda := s.agenda.tail })
    ∧ (s.host.over = true → step s = .next { s with agenda := s.agenda.tail })

/-! ### The commands -/

/-- R161 (decision D5 of the spec): `SYNC` in the synchronised state answers `PICO` and changes nothing else. -/
def Obligations.SyncAnswersPico : Prop :=
  ∀ s : State, ∃ t, exec .sync s = .next t ∧ s.CommandFrame t ∧ t.st = .readOpcode
    ∧ t.tx = s.tx ++ [0x50, 0x49, 0x43, 0x4F] ∧ t.resp = { s.resp with status := some .pico, data := some [] }
    ∧ t.crcAcc = s.crcAcc ∧ t.flash = s.flash ∧ ∀ a, t.byteAt a = s.byteAt a

/-- R162: `INFO` answers `OKOK` and the five geometry values in order, 24 bytes, and changes nothing else. -/
def Obligations.InfoReportsGeometry : Prop :=
  ∀ s : State, ∃ t, exec .info s = .next t ∧ s.CommandFrame t ∧ t.st = .readOpcode
    ∧ (let r := [0x4F, 0x4B, 0x4F, 0x4B] ++ enc32 s.geom.flashAddr ++ enc32 s.geom.flashSize ++ enc32 s.geom.eraseSize
          ++ enc32 s.geom.writeSize ++ enc32 s.geom.maxDataLen
       t.tx = s.tx ++ r ∧ r.length = 24)
    ∧ t.resp =
        { status := some .okok, r0 := some s.geom.flashAddr, r1 := some s.geom.flashSize, r2 := some s.geom.eraseSize,
          r3 := some s.geom.writeSize, r4 := some s.geom.maxDataLen, data := some [] }
    ∧ t.crcAcc = s.crcAcc ∧ t.flash = s.flash ∧ ∀ a, t.byteAt a = s.byteAt a

/-- R163 (decision D9 of the spec): `READ` answers `OKOK` and the bytes of the populated addresses of `[addr, addr + len)` in
ascending order, none for the others, and changes nothing else. That the range reaches populated addresses from 2^32 on is log
entry 26 (DEDUCED). -/
def Obligations.ReadReturnsPopulatedBytesOfRange : Prop :=
  ∀ (addr len : Word) (s : State), ∃ t, exec (.read addr len) s = .next t ∧ s.CommandFrame t ∧ t.st = .readOpcode
    ∧ (let payload := (List.range' addr.toNat len.toNat).filterMap s.byteAt
       t.tx = s.tx ++ [0x4F, 0x4B, 0x4F, 0x4B] ++ payload
       ∧ t.resp = { s.resp with status := some .okok, data := some payload })
    ∧ t.crcAcc = s.crcAcc ∧ t.flash = s.flash ∧ ∀ a, t.byteAt a = s.byteAt a

/-- R164 (decision D10 of the spec): `ERAS` sets every populated byte of `[addr, addr + len)` to 0xFF, no other byte, and
answers `OKOK`. That the range reaches populated addresses from 2^32 on is log entry 26 (DEDUCED). -/
def Obligations.EraseFillsPopulatedRange : Prop :=
  ∀ (addr len : Word) (s : State), ∃ t, exec (.eras addr len) s = .next t ∧ s.CommandFrame t ∧ t.st = .readOpcode
    ∧ t.tx = s.tx ++ [0x4F, 0x4B, 0x4F, 0x4B] ∧ t.resp = { s.resp with status := some .okok, data := some [] }
    ∧ t.crcAcc = s.crcAcc
    ∧ (∀ a, addr.toNat ≤ a → a < addr.toNat + len.toNat → s.populated a = true → t.byteAt a = some 0xFF)
    ∧ ∀ a, (a < addr.toNat ∨ addr.toNat + len.toNat ≤ a ∨ s.populated a = false) → t.byteAt a = s.byteAt a

/-- R165 (decision D10 of the spec): `WRIT` stores byte `i` of the payload at `addr + i` where that is populated, no other byte,
and answers `OKOK` and the checksum of the payload as received; the accumulator of U2 is left at that checksum's value. R120, R121: a
record whose payload has not `len` bytes is no command and is refused. That the range reaches populated addresses from 2^32 on is
log entry 26 (DEDUCED). -/
def Obligations.WriteStoresPayloadAndReportsChecksum : Prop :=
  ∀ (addr len : Word) (data : List Byte) (s : State),
    ((Instr.writ addr len data).wellFormed = false → exec (.writ addr len data) s = .refused .illFormedCommand)
    ∧ ((Instr.writ addr len data).wellFormed = true →
    ∃ t, exec (.writ addr len data) s = .next t ∧ s.CommandFrame t ∧ t.st = .readOpcode
    ∧ t.tx = s.tx ++ [0x4F, 0x4B, 0x4F, 0x4B] ++ enc32 (crc32 data)
    ∧ t.resp = { s.resp with status := some .okok, r0 := some (crc32 data), data := some [] }
    ∧ crcFinal t.crcAcc = crc32 data
    ∧ (∀ i, (h : i < data.length) → s.populated (addr.toNat + i) = true → t.byteAt (addr.toNat + i) = some data[i])
    ∧ ∀ a, (a < addr.toNat ∨ addr.toNat + len.toNat ≤ a ∨ s.populated a = false) → t.byteAt a = s.byteAt a)

/-- R166: `SEAL` answers `OKOK` for any three values and changes nothing else: the checksum is not compared with the flash. -/
def Obligations.SealAcceptsAnyArguments : Prop :=
  ∀ (addr len crc : Word) (s : State), ∃ t, exec (.sealImage addr len crc) s = .next t ∧ s.CommandFrame t ∧ t.st = .readOpcode
    ∧ t.tx = s.tx ++ [0x4F, 0x4B, 0x4F, 0x4B] ∧ t.resp = { s.resp with status := some .okok, data := some [] }
    ∧ t.crcAcc = s.crcAcc ∧ t.flash = s.flash ∧ ∀ a, t.byteAt a = s.byteAt a

/-- R167 (decision D6 of the spec): `GOGO` answers `OKOK`, then the session is at its end, whatever the address. -/
def Obligations.GoEndsSession : Prop :=
  ∀ (addr : Word) (s : State), ∃ t, exec (.gogo addr) s = .next t ∧ s.CommandFrame t ∧ t.st = .ended .byGo
    ∧ t.tx = s.tx ++ [0x4F, 0x4B, 0x4F, 0x4B] ∧ t.resp = { s.resp with status := some .okok, data := some [] }
    ∧ t.crcAcc = s.crcAcc ∧ t.flash = s.flash ∧ ∀ a, t.byteAt a = s.byteAt a

/-- R61: doing the same `WRIT` twice leaves the very flash that doing it once leaves. -/
def Obligations.WriteIsIdempotentOnFlash : Prop :=
  ∀ (addr len : Word) (data : List Byte) (s t u : State),
    exec (.writ addr len data) s = .next t → exec (.writ addr len data) t = .next u → u.flash = t.flash

/-- R57, R64: a `READ` that follows a `WRIT` of the same range, wholly populated, answers the payload. -/
def Obligations.ReadAfterWriteReturnsPayload : Prop :=
  ∀ (addr len : Word) (data : List Byte) (s : State), (Instr.writ addr len data).wellFormed = true →
    s.memLo ≤ addr.toNat → addr.toNat + len.toNat ≤ s.memHi →
    ∃ t u, exec (.writ addr len data) s = .next t ∧ exec (.read addr len) t = .next u
      ∧ u.tx = t.tx ++ [0x4F, 0x4B, 0x4F, 0x4B] ++ data

/-! ### Responses -/

/-- R92, R202, R204: a response frame read by any agent but the host, so by the device side, takes the error of cause E1:
`ERR!` is queued and control goes to ERROR; nothing else changes. -/
def Obligations.ResponseFramesRaiseAtDevice : Prop :=
  ∀ (rargs : List Word) (rdata : List Byte) (s : State), s.mover ≠ .host →
    exec (.okok rargs rdata) s = .next { s with errQueued := some .err, st := .error }
    ∧ exec .err s = .next { s with errQueued := some .err, st := .error }
    ∧ exec .pico s = .next { s with errQueued := some .err, st := .error }

/-- R182: in the Sync step `PICO` is success; `OKOK` and `ERR!` are failed attempts, and so are four bytes that are no status: the
next attempt while the budget lasts, then `SyncTimeout`. -/
def Obligations.HostSyncStepWantsPico : Prop :=
  ∀ s : State, s.mover = .host → s.host.progress = .running .sync →
    exec .pico s = .next
      { s with host := { s.host with progress := .running .info, phase := .send, cursor := 0, sent := none, synced := true } }
    ∧ (∀ rargs rdata, exec (.okok rargs rdata) s = exec .err s)
    ∧ (s.host.attempts < s.host.maxAttempts →
        exec .err s = .next { s with host := { s.host with phase := .send, sent := none } })
    ∧ (s.host.maxAttempts ≤ s.host.attempts →
        exec .err s = .next { s with host := { s.host with progress := .failed (.syncTimeout s.host.attempts) } })
    ∧ ∀ (t : Tag) (rest : List Byte), s.host.phase = .response → s.host.sent = some .sync →
        s.host.unread = t.bytes ++ rest → (∀ st : Status, st.tag ≠ t) →
        step s = mapNext State.popAgenda (exec .err { s with host := { s.host with rxPos := s.host.rxPos + 4 } })

/-- R183: the `OKOK` response to `INFO` gives the host the geometry, field by field, and the Pad step is next. -/
def Obligations.HostInfoStoresGeometry : Prop :=
  ∀ (s : State) (a b c d e : Word), s.mover = .host → s.host.progress = .running .info →
    exec (.okok [a, b, c, d, e] []) s = .next
      { s with
        host :=
          { s.host with
            dev := some { flashAddr := a, flashSize := b, eraseSize := c, writeSize := d, maxDataLen := e }
            progress := .running .pad, phase := .send, cursor := 0, sent := none } }

/-- R187: in the Write step the returned checksum is compared with that of the chunk sent: equal, the walk goes on at
`off + n`; different, `IntegrityError` with the chunk's address and length and both checksums. -/
def Obligations.HostWriteStepValidatesChecksum : Prop :=
  ∀ (s : State) (addr len c : Word) (chunk : List Byte), s.mover = .host → s.host.progress = .running .write →
    s.host.sent = some (.writ addr len chunk) →
    exec (.okok [c] []) s = .next
      { s with
        host :=
          if c = crc32 chunk then { s.host with phase := .send, cursor := s.host.cursor + len.toNat, sent := none }
          else { s.host with progress := .failed (.integrityError addr.toNat len.toNat (crc32 chunk) c) } }

/-- R186, R188: `OKOK` in the Erase step goes on with the next chunk, in the Seal step with Go. -/
def Obligations.HostEraseAndSealGoOnAfterOk : Prop :=
  ∀ s : State, s.mover = .host →
    (s.host.progress = .running .erase →
      exec (.okok [] []) s = .next
        { s with host := { s.host with phase := .send, cursor := s.host.cursor + 1, sent := none } })
    ∧ (s.host.progress = .running .sealImage →
      exec (.okok [] []) s = .next
        { s with host := { s.host with progress := .running .go, phase := .send, cursor := 0, sent := none } })

/-- R190, R93, R201: where `OKOK` was due, `ERR!` is `DeviceError`, and `PICO` and any four bytes that are no status are
`ProtocolError`, with the step, the command and, for the second, the four bytes read. -/
def Obligations.HostClassifiesUnwantedStatuses : Prop :=
  ∀ (s : State) (st : HStep), s.mover = .host → s.host.progress = .running st →
    (st = .info ∨ st = .erase ∨ st = .write ∨ st = .sealImage) →
    exec .err s = .next { s with host := { s.host with progress := .failed (.deviceError st s.host.sent) } }
    ∧ exec .pico s = .next
        { s with host := { s.host with progress := .failed (.protocolError st s.host.sent ⟨0x50, 0x49, 0x43, 0x4F⟩) } }
    ∧ ∀ (cmd : Instr) (t : Tag) (rest : List Byte), s.host.phase = .response → s.host.sent = some cmd →
        s.host.unread = t.bytes ++ rest → (∀ status : Status, status.tag ≠ t) →
        step s = .next
          { s with
            host := { s.host with progress := .failed (.protocolError st (some cmd) t), rxPos := s.host.rxPos + 4 }
            agenda := s.agenda.tail }

/-- R190, R182, R124: a step of the host that awaits a response reads it whole, whatever response of the awaited command's shape it
is, and is `exec` of it, with the move taken off the agenda; while a byte of it is missing the host waits (that a wait is a step
to the same state is log entry 6; that the two reads of R190 are one step is R20, log entry 14). -/
def Obligations.HostStepRunsTheResponseItReads : Prop :=
  ∀ (s : State) (st : HStep) (cmd : Instr), s.mover = .host → s.host.progress = .running st →
    (st = .sync ∨ st = .info ∨ st = .erase ∨ st = .write ∨ st = .sealImage) → s.host.phase = .response →
    s.host.sent = some cmd → cmd.isCommand = true →
    (∀ (r : Response) (rest : List Byte),
      (r.status = .okok ∧ r.rargs.length = respArgCount cmd ∧ r.rdata.length = respPayloadLen cmd
        ∨ r.status ≠ .okok ∧ r.rargs = [] ∧ r.rdata = []) →
      s.host.unread = encodeResp r ++ rest →
      step s = mapNext State.popAgenda
        (exec r.toInstr { s with host := { s.host with rxPos := s.host.rxPos + (encodeResp r).length } }))
    ∧ ((s.host.unread.length < 4
        ∨ ∃ part, s.host.unread = [0x4F, 0x4B, 0x4F, 0x4B] ++ part
            ∧ part.length < 4 * respArgCount cmd + respPayloadLen cmd) →
      step s = .next { s with agenda := s.agenda.tail })

/-! ### The host sequence and the Transport -/

/-- R184: Pad appends zero bytes up to `align(len, write_size)` where the granularities are above zero, sends nothing, and is no
step of its own (R20; log entry 14): the host's step from Pad is its step from Bounds with the padded data. R181 b, X6: with a
zero granularity the host run is refused (that it is refused at the Pad step is DEDUCED, log entry 15, from decision D21 of the
spec). -/
def Obligations.HostPadsToWriteGranularityOrRefuses : Prop :=
  ∀ (s : State) (dev : Geometry), s.mover = .host → s.host.progress = .running .pad → s.host.dev = some dev →
    (dev.writeSize ≠ 0 → dev.eraseSize ≠ 0 → dev.maxDataLen ≠ 0 →
      ∃ padded,
        step s = step
          { s with
            host :=
              { s.host with padded := some padded, progress := .running .bounds, phase := .send, cursor := 0, sent := none } }
        ∧ (∀ t, step s = .next t → t.host.padded = some padded)
        ∧ padded.length = align s.host.image.data.length dev.writeSize.toNat
        ∧ s.host.image.data <+: padded
        ∧ ∀ i, (h : i < padded.length) → s.host.image.data.length ≤ i → padded[i] = 0x00)
    ∧ (dev.writeSize = 0 ∨ dev.eraseSize = 0 ∨ dev.maxDataLen = 0 → step s = .refused .hostGranularityZero)

/-- R185: each of the two conditions raises `BoundsError`, in `nat`, and nothing is sent; otherwise the host goes on with Erase, in
the same step (R20; log entry 14). That padded data of 2^32 bytes or more is a `BoundsError` and not a refused run is log entry 29
(DEDUCED). -/
def Obligations.HostBoundsCheckRejectsImages : Prop :=
  ∀ (s : State) (dev : Geometry) (padded : List Byte), s.mover = .host → s.host.progress = .running .bounds →
    s.host.dev = some dev → s.host.padded = some padded →
    let bad := s.host.image.addr < dev.flashAddr.toNat
      ∨ s.host.image.addr + padded.length > dev.flashAddr.toNat + dev.flashSize.toNat
    (bad → step s = .next
      { s with
        host := { s.host with progress := .failed (.boundsError s.host.image.addr padded.length dev) }
        agenda := s.agenda.tail })
    ∧ (¬ bad → step s = step
      { s with host := { s.host with progress := .running .erase, phase := .send, cursor := 0, sent := none } })

/-- R186: the commands that the Erase step gives, `eraseCmd` for `k` = 0, 1, ..., cover `[addr, addr + erase_len)` with no gap and
no overlap, each with `erase_size` bytes, where none is refused; refused is a chunk whose address does not fit a u32 (R181 c). -/
def Obligations.EraseChunksCoverRangeOnce : Prop :=
  ∀ (addr paddedLen : Nat) (dev : Geometry), dev.eraseSize ≠ 0 →
    let e := dev.eraseSize.toNat
    ((∀ k, eraseCmd addr paddedLen dev k ≠ .refuse .hostValueNotU32) →
      ∀ a, (addr ≤ a ∧ a < addr + align paddedLen e)
        ↔ ∃! k, ∃ w, eraseCmd addr paddedLen dev k = .send (.eras w dev.eraseSize) ∧ w.toNat ≤ a ∧ a < w.toNat + e)
    ∧ (∀ k cmd, eraseCmd addr paddedLen dev k = .send cmd → ∃ w, cmd = .eras w dev.eraseSize ∧ w.toNat = addr + k * e)
    ∧ ∀ k, eraseCmd addr paddedLen dev k = .refuse .hostValueNotU32 ↔ k * e < align paddedLen e ∧ 2 ^ 32 ≤ addr + k * e

/-- R186, R187: what the host sends at the cursor of the Erase and of the Write step: the `k`-th Erase chunk, of exactly
`erase_size` bytes; the Write chunk at `off`, of at most `max_data_len` bytes; a chunk whose address does not fit a u32 is refused
(R181 c). When no chunk is left the host goes on to the next step of the sequence in the same step (R20; log entry 14). That the
cursor rises is said by `HostEraseAndSealGoOnAfterOk` and `HostWriteStepValidatesChecksum`. That `align` is 0 for an
`erase_size` of 0, which R181 b keeps from a run, is log entry 30 (DESIGN CHOICE). -/
def Obligations.HostSendsChunkAtItsCursor : Prop :=
  ∀ (s : State) (dev : Geometry) (padded : List Byte), s.mover = .host → s.host.phase = .send → s.host.dev = some dev →
    s.host.padded = some padded →
    (s.host.progress = .running .erase →
      let a := s.host.image.addr + s.host.cursor * dev.eraseSize.toNat
      let chunks := align padded.length dev.eraseSize.toNat / dev.eraseSize.toNat
      (s.host.cursor < chunks → a < 2 ^ 32 →
        ∃ w bs, w.toNat = a ∧ encode (.eras w dev.eraseSize) = some bs
          ∧ step s = .next
            { s with
              host := { s.host with sent := some (.eras w dev.eraseSize), phase := .response, tx := s.host.tx ++ bs }
              agenda := s.agenda.tail })
      ∧ (s.host.cursor < chunks → 2 ^ 32 ≤ a → step s = .refused .hostValueNotU32)
      ∧ (chunks ≤ s.host.cursor →
        step s = step { s with host := { s.host with progress := .running .write, cursor := 0, sent := none } }))
    ∧ (s.host.progress = .running .write →
      let a := s.host.image.addr + s.host.cursor
      let n := min dev.maxDataLen.toNat (padded.length - s.host.cursor)
      (s.host.cursor < padded.length → a < 2 ^ 32 →
        ∃ w len bs, w.toNat = a ∧ len.toNat = n
          ∧ (let cmd : Instr := .writ w len ((padded.drop s.host.cursor).take n)
             encode cmd = some bs
             ∧ step s = .next
               { s with
                 host := { s.host with sent := some cmd, phase := .response, tx := s.host.tx ++ bs }
                 agenda := s.agenda.tail }))
      ∧ (s.host.cursor < padded.length → 2 ^ 32 ≤ a → step s = .refused .hostValueNotU32)
      ∧ (padded.length ≤ s.host.cursor →
        step s = step { s with host := { s.host with progress := .running .sealImage, cursor := 0, sent := none } }))

/-- R182, R183, R188, R189: what the host sends in the steps that send one command. Sync: `SYNC`, counted, while the budget lasts,
and `SyncTimeout` at once when it is used up; before that an image address outside u32 is refused, whatever the budget (R181 a).
Info: `INFO`. Seal: the checksum over all of the padded data. Go: the image address, and the host is `DONE`. An address or a length
outside u32 is refused (R181 c). -/
def Obligations.HostSendsSyncInfoSealAndGo : Prop :=
  ∀ s : State, s.mover = .host → s.host.phase = .send →
    (s.host.progress = .running .sync →
      (2 ^ 32 ≤ s.host.image.addr → step s = .refused .hostValueNotU32)
      ∧ (s.host.image.addr < 2 ^ 32 → s.host.attempts < s.host.maxAttempts →
        step s = .next
          { s with
            host :=
              { s.host with
                attempts := s.host.attempts + 1, sent := some .sync, phase := .response
                tx := s.host.tx ++ [0x53, 0x59, 0x4E, 0x43] }
            agenda := s.agenda.tail })
      ∧ (s.host.image.addr < 2 ^ 32 → s.host.maxAttempts ≤ s.host.attempts →
        step s = .next
          { s with host := { s.host with progress := .failed (.syncTimeout s.host.attempts) }, agenda := s.agenda.tail }))
    ∧ (s.host.progress = .running .info →
      step s = .next
        { s with
          host := { s.host with sent := some .info, phase := .response, tx := s.host.tx ++ [0x49, 0x4E, 0x46, 0x4F] }
          agenda := s.agenda.tail })
    ∧ (∀ padded, s.host.progress = .running .sealImage → s.host.padded = some padded →
      (s.host.image.addr < 2 ^ 32 → padded.length < 2 ^ 32 →
        ∃ a n bs, a.toNat = s.host.image.addr ∧ n.toNat = padded.length ∧ encode (.sealImage a n (crc32 padded)) = some bs
          ∧ step s = .next
            { s with
              host := { s.host with sent := some (.sealImage a n (crc32 padded)), phase := .response, tx := s.host.tx ++ bs }
              agenda := s.agenda.tail })
      ∧ (2 ^ 32 ≤ s.host.image.addr ∨ 2 ^ 32 ≤ padded.length → step s = .refused .hostValueNotU32))
    ∧ (s.host.progress = .running .go →
      (s.host.image.addr < 2 ^ 32 →
        ∃ a bs, a.toNat = s.host.image.addr ∧ encode (.gogo a) = some bs
          ∧ step s = .next
            { s with host := { s.host with progress := .done, tx := s.host.tx ++ bs }, agenda := s.agenda.tail })
      ∧ (2 ^ 32 ≤ s.host.image.addr → step s = .refused .hostValueNotU32))

/-- R191, R180: after a fatal error and after `DONE` no step but the creation of a session or of a further flashing session moves
the host on or lets it send a byte, and its own step changes nothing at all. R244: a further flashing session starts the sequence
anew on the same ends of the Transport, so that what was never read is what is read next; while a run is not over there is none
(DEDUCED, log entry 27). -/
def Obligations.HostStopsAfterFatalErrorAndDone : Prop :=
  ∀ s : State,
    ((s.host.progress = .done ∨ ∃ e, s.host.progress = .failed e) →
      (∀ t, (∀ p, s.mover ≠ .newSession p) → (∀ image n, s.mover ≠ .newFlashing image n) → step s = .next t →
        t.host.progress = s.host.progress ∧ t.host.tx = s.host.tx ∧ (s.mover = .host → t = s.popAgenda))
      ∧ ∀ image n, s.mover = .newFlashing image n →
        step s = .next
          { s with
            host :=
              { progress := .running .sync, phase := .send, synced := false, attempts := 0, maxAttempts := n, dev := none,
                image := image, padded := none, cursor := 0, sent := none, tx := s.host.tx, txTaken := s.host.txTaken,
                rx := s.host.rx, rxPos := s.host.rxPos }
            agenda := s.agenda.tail })
    ∧ ∀ st image n, s.host.progress = .running st → s.mover = .newFlashing image n →
      step s = .next { s with agenda := s.agenda.tail }

/-- R180: "The host runs eight steps in this order and no other": under the host's invariant a step leaves `h_step` where it is,
moves it to the very next, or fails, or it passes over steps that have nothing to send (R20; log entry 14): Bounds, on the way
from Pad to Erase; Erase and Write, on the way to Seal, when the padded data is empty (R193). -/
def Obligations.HostStepsInOrder : Prop :=
  ∀ (s t : State) (m n : Nat), s.host.Inv → (∀ p, s.mover ≠ .newSession p) → (∀ image k, s.mover ≠ .newFlashing image k) →
    step s = .next t → s.host.progress.rank = some m → t.host.progress.rank = some n →
    n = m ∨ n = m + 1 ∨ m = 2 ∧ n = 4 ∨ 2 ≤ m ∧ m ≤ 4 ∧ n = 6 ∧ t.host.padded = some []

/-- R54: the Transport moves the next bytes of a transmit stream to the other side's receive stream, in order, and changes
nothing else. -/
def Obligations.TransportDeliversInOrder : Prop :=
  ∀ (s : State) (n : Nat),
    (s.mover = .deliver n → s.host.txTaken + n ≤ s.host.tx.length →
      step s = .next
        { s with
          rx := s.rx ++ (s.host.tx.drop s.host.txTaken).take n
          host := { s.host with txTaken := s.host.txTaken + n }
          agenda := s.agenda.tail })
    ∧ (s.mover = .deliverBack n → s.txTaken + n ≤ s.tx.length →
      step s = .next
        { s with
          txTaken := s.txTaken + n
          host := { s.host with rx := s.host.rx ++ (s.tx.drop s.txTaken).take n }
          agenda := s.agenda.tail })

/-- R108 law 3, R165, R187 (the document's property "CRC enforcement"): when the chunk that the device received differs in
exactly one byte from the one the host sent, the checksum that the device's `WRIT` returns makes the host raise
`IntegrityError`. -/
def Obligations.OneChangedByteIsAnIntegrityError : Prop :=
  ∀ (d h : State) (addr len : Word) (a c : List Byte) (b b' : Byte), b ≠ b' →
    (Instr.writ addr len (a ++ b :: c)).wellFormed = true →
    h.mover = .host → h.host.progress = .running .write → h.host.sent = some (.writ addr len (a ++ b :: c)) →
    ∃ d' returned, exec (.writ addr len (a ++ b' :: c)) d = .next d' ∧ d'.resp.r0 = some returned
      ∧ exec (.okok [returned] []) h = .next
          { h with
            host :=
              { h.host with
                progress := .failed (.integrityError addr.toNat len.toNat (crc32 (a ++ b :: c)) returned) } }

/-! ### The whole machine -/

/-- R39, R231: the state after session creation, for every parameter (the OPEN ones among them); the initial `crc_acc` is the
spec's decision D22; that the state after reset is creation with constants of `Config` for the OPEN parameters is log entry 3
(DESIGN CHOICE). -/
def Obligations.CreationLeavesInitialState : Prop :=
  ∀ p : Params,
    let s := State.create p
    s.st = .waitSync ∧ s.syncIdx = 0 ∧ s.hasSynced = false ∧ s.errQueued = none ∧ s.opcode = none
    ∧ s.arg = { a0 := none, a1 := none, a2 := none } ∧ s.data = []
    ∧ s.resp = { status := none, r0 := none, r1 := none, r2 := none, r3 := none, r4 := none, data := none }
    ∧ s.rx = [] ∧ s.tx = [] ∧ s.rxPos = 0 ∧ s.crcAcc = 0xFFFFFFFF ∧ s.geom = p.geometry
    ∧ (∀ a, s.flash.read a = (cellAt p.flashInit.cells a).getD p.flashInit.fill)
    ∧ s.host.progress = .running .sync ∧ s.host.synced = false ∧ s.host.attempts = 0 ∧ s.host.dev = none
    ∧ s.host.padded = none ∧ State.reset = State.create Config.params

/-- R25 to R28, R37, R40: both invariants hold at session creation, for every parameter. -/
def Obligations.InvariantsHoldAtCreation : Prop :=
  ∀ p : Params, (State.create p).SessionInv ∧ (State.create p).host.Inv

/-- R25 to R28, R40, R51: every step keeps the invariant of the device session, whichever agent moves. -/
def Obligations.EveryStepKeepsSessionInvariant : Prop :=
  ∀ s t : State, s.SessionInv → step s = .next t → t.SessionInv

/-- R37, R180, R185, R190, R212: every step keeps the invariant of the host side. -/
def Obligations.EveryStepKeepsHostInvariant : Prop :=
  ∀ s t : State, s.host.Inv → step s = .next t → t.host.Inv

/-- R40: under the session invariant no step ends in a fault ("an option type whose empty case no step reaches"), and a step
that is not the host's always answers a next state. Among these are a device that holds and a device in END, where R148 and R147
give no step: that they take one to the same state is log entry 6 (DESIGN CHOICE). -/
def Obligations.SessionInvariantExcludesFaults : Prop :=
  ∀ s : State, s.SessionInv → (∀ f, step s ≠ .fault f) ∧ (s.mover ≠ .host → ∃ t, step s = .next t)

/-- R34: the flash "is reached by `READ` (read), `ERAS` (write) and `WRIT` (write) and by nothing else": a step that changes it
runs an `ERAS` or a `WRIT` in HANDLE (`heldOpcode`: what HANDLE reads in `opcode`), or creates a session. -/
def Obligations.OnlyEraseAndWriteChangeFlash : Prop :=
  ∀ s t : State, (∀ p, s.mover ≠ .newSession p) → step s = .next t → t.flash ≠ s.flash →
    s.mover = .device ∧ s.st = .handle ∧ (s.heldOpcode = .ok .eras ∨ s.heldOpcode = .ok .writ)

/-- R8, R30: no step changes a geometry register while the session lives. R26, R35, R36: the streams only grow at their tails, and
`rx_pos`, the bytes the Transport has taken and the bytes the host has read never move back. -/
def Obligations.GeometryIsReadOnlyAndStreamsOnlyGrow : Prop :=
  ∀ s t : State, (∀ p, s.mover ≠ .newSession p) → step s = .next t →
    t.geom = s.geom
    ∧ s.rx <+: t.rx ∧ s.tx <+: t.tx ∧ s.rxPos ≤ t.rxPos ∧ s.txTaken ≤ t.txTaken
    ∧ s.host.rx <+: t.host.rx ∧ s.host.tx <+: t.host.tx ∧ s.host.txTaken ≤ t.host.txTaken ∧ s.host.rxPos ≤ t.host.rxPos
end

