-- ==== Sys2Proof/Laws/Codec.lean ====
section
/-! SUPPORT. Small laws of the codec: the table lookup and the stages of the decoders. The round trips of the frame codec are
obligations; they are put together from these. -/

namespace Sys2Proof

theorem opcodeOf_tag (op : Opcode) : opcodeOf op.tag = some op := by cases op <;> decide

theorem statusOf_tag (st : Status) : statusOf st.tag = some st := by cases st <;> decide

/-- A tag found in the opcode table is the tag of the opcode found (R88). -/
theorem tag_of_opcodeOf {t : Tag} {op : Opcode} (h : opcodeOf t = some op) : op.tag = t := by
  simpa using List.find?_some h

theorem tag_of_statusOf {t : Tag} {st : Status} (h : statusOf t = some st) : st.tag = t := by
  simpa using List.find?_some h

/-- A tag that no opcode has is not found. -/
theorem opcodeOf_eq_none {t : Tag} (h : ∀ op : Opcode, op.tag ≠ t) : opcodeOf t = none := by
  simp [opcodeOf, h]

theorem opcodeOf_eq_none_iff {t : Tag} : opcodeOf t = none ↔ ∀ op : Opcode, op.tag ≠ t :=
  ⟨fun h op e => (by subst e; rw [opcodeOf_tag] at h; exact nomatch h), opcodeOf_eq_none⟩

theorem opcode_tag_ne_status_tag (op : Opcode) (st : Status) : op.tag ≠ st.tag := by cases op <;> cases st <;> decide

theorem Opcode.tag_injective {a b : Opcode} (h : a.tag = b.tag) : a = b := by
  have := opcodeOf_tag a; rw [h, opcodeOf_tag] at this; exact (Option.some.inj this).symm

@[simp] theorem Tag.bytes_length (t : Tag) : t.bytes.length = 4 := rfl

@[simp] theorem enc32_length (v : Word) : (enc32 v).length = 4 := rfl

theorem flatMap_enc32_length (ws : List Word) : (ws.flatMap enc32).length = 4 * ws.length := by
  induction ws with
  | nil => rfl
  | cons w ws ih => simp only [List.flatMap_cons, List.length_append, enc32_length, ih, List.length_cons]; omega

/-! ### The encoder -/

theorem encode_of_wellFormed {i : Instr} (h : i.wellFormed = true) : encode i = some i.bytes := if_pos h

theorem encode_of_illFormed {i : Instr} (h : i.wellFormed = false) : encode i = none := if_neg (by simp [h])

theorem encode_eq_some {i : Instr} {bs : List Byte} : encode i = some bs ↔ i.wellFormed = true ∧ bs = i.bytes := by
  cases h : i.wellFormed
  · rw [encode_of_illFormed h]; exact ⟨nofun, fun e => nomatch e.1⟩
  · rw [encode_of_wellFormed h]; exact ⟨fun e => ⟨rfl, (Option.some.inj e).symm⟩, fun e => congrArg some e.2.symm⟩

theorem Instr.bytes_length (i : Instr) : i.bytes.length = 4 + 4 * i.args.length + i.payload.length := by
  simp only [Instr.bytes, List.length_append, Tag.bytes_length, flatMap_enc32_length]

/-! ### The decoders' stages -/

@[simp] theorem takeTag_bytes (t : Tag) (rest : List Byte) : takeTag (t.bytes ++ rest) = some (t, rest) := rfl

/-- The first stage of a decoder splits the stream: the tag's four bytes, and the rest. -/
theorem takeTag_eq_some {bs rest : List Byte} {t : Tag} : takeTag bs = some (t, rest) ↔ bs = t.bytes ++ rest := by
  constructor
  · intro h
    match bs, h with
    | b0 :: b1 :: b2 :: b3 :: r, h => simp only [takeTag, Option.some.injEq, Prod.mk.injEq] at h; obtain ⟨rfl, rfl⟩ := h; rfl
  · rintro rfl; rfl

theorem takeTag_eq_none {bs : List Byte} : takeTag bs = none ↔ bs.length < 4 := by
  match bs with
  | [] => simp [takeTag]
  | [_] => simp [takeTag]
  | [_, _] => simp [takeTag]
  | [_, _, _] => simp [takeTag]
  | _ :: _ :: _ :: _ :: r => simp [takeTag]

/-- The last stage of a decoder splits the stream at its length. -/
theorem takeBytes_append (bs rest : List Byte) : takeBytes bs.length (bs ++ rest) = some (bs, rest) := by
  simp [takeBytes]

theorem takeBytes_eq_some {n : Nat} {bs p rest : List Byte} :
    takeBytes n bs = some (p, rest) ↔ bs = p ++ rest ∧ p.length = n := by
  simp only [takeBytes, Option.ite_none_right_eq_some, Option.some.injEq, Prod.mk.injEq]
  constructor
  · rintro ⟨h, rfl, rfl⟩; simp [h]
  · rintro ⟨rfl, rfl⟩; simp

/-- R125, part by part: a command is the one its opcode, arguments and payload build. -/
theorem buildInstr_of_isCommand {i : Instr} (h : i.isCommand = true) :
    ∃ op, i.opcode = some op ∧ op.tag = i.tag ∧ i.args.length = op.nargs ∧ buildInstr op i.args i.payload = some i := by
  cases i <;> simp_all [Instr.isCommand, Instr.opcode, Instr.tag, Instr.args, Instr.payload, buildInstr, Opcode.nargs]

/-- The payload of a well-formed command has the length that its arguments announce (R85, R120). -/
theorem payload_length_of_wellFormed {i : Instr} {op : Opcode} (hc : i.isCommand = true) (hw : i.wellFormed = true)
    (hop : i.opcode = some op) : i.payload.length = payloadLen op i.args := by
  cases i <;> simp_all [Instr.isCommand, Instr.opcode, Instr.args, Instr.payload, payloadLen, Instr.wellFormed] <;>
    subst hop <;> simp [Opcode.hasPayload]

end Sys2Proof
end

