-- ==== Sys2Proof/Laws/State.lean ====
section
/-! SUPPORT. What each named update of the state does to each field: true by rfl, so that no proof unfolds an update. -/

namespace Sys2Proof.Machine

variable (s : State)

/-! ### `crcInit` -/

@[simp] theorem State.crcInit_st : s.crcInit.st = s.st := rfl
@[simp] theorem State.crcInit_syncIdx : s.crcInit.syncIdx = s.syncIdx := rfl
@[simp] theorem State.crcInit_opcode : s.crcInit.opcode = s.opcode := rfl
@[simp] theorem State.crcInit_arg : s.crcInit.arg = s.arg := rfl
@[simp] theorem State.crcInit_data : s.crcInit.data = s.data := rfl
@[simp] theorem State.crcInit_hasSynced : s.crcInit.hasSynced = s.hasSynced := rfl
@[simp] theorem State.crcInit_errQueued : s.crcInit.errQueued = s.errQueued := rfl
@[simp] theorem State.crcInit_resp : s.crcInit.resp = s.resp := rfl
@[simp] theorem State.crcInit_crcAcc : s.crcInit.crcAcc = crcParams.init := rfl
@[simp] theorem State.crcInit_geom : s.crcInit.geom = s.geom := rfl
@[simp] theorem State.crcInit_flash : s.crcInit.flash = s.flash := rfl
@[simp] theorem State.crcInit_rx : s.crcInit.rx = s.rx := rfl
@[simp] theorem State.crcInit_rxPos : s.crcInit.rxPos = s.rxPos := rfl
@[simp] theorem State.crcInit_tx : s.crcInit.tx = s.tx := rfl
@[simp] theorem State.crcInit_txTaken : s.crcInit.txTaken = s.txTaken := rfl
@[simp] theorem State.crcInit_host : s.crcInit.host = s.host := rfl
@[simp] theorem State.crcInit_agenda : s.crcInit.agenda = s.agenda := rfl

/-! ### `crcUpdate` -/

@[simp] theorem State.crcUpdate_st (m : List Byte) : (s.crcUpdate m).st = s.st := rfl
@[simp] theorem State.crcUpdate_syncIdx (m : List Byte) : (s.crcUpdate m).syncIdx = s.syncIdx := rfl
@[simp] theorem State.crcUpdate_opcode (m : List Byte) : (s.crcUpdate m).opcode = s.opcode := rfl
@[simp] theorem State.crcUpdate_arg (m : List Byte) : (s.crcUpdate m).arg = s.arg := rfl
@[simp] theorem State.crcUpdate_data (m : List Byte) : (s.crcUpdate m).data = s.data := rfl
@[simp] theorem State.crcUpdate_hasSynced (m : List Byte) : (s.crcUpdate m).hasSynced = s.hasSynced := rfl
@[simp] theorem State.crcUpdate_errQueued (m : List Byte) : (s.crcUpdate m).errQueued = s.errQueued := rfl
@[simp] theorem State.crcUpdate_resp (m : List Byte) : (s.crcUpdate m).resp = s.resp := rfl
@[simp] theorem State.crcUpdate_crcAcc (m : List Byte) : (s.crcUpdate m).crcAcc = crcAbsorb s.crcAcc m := rfl
@[simp] theorem State.crcUpdate_geom (m : List Byte) : (s.crcUpdate m).geom = s.geom := rfl
@[simp] theorem State.crcUpdate_flash (m : List Byte) : (s.crcUpdate m).flash = s.flash := rfl
@[simp] theorem State.crcUpdate_rx (m : List Byte) : (s.crcUpdate m).rx = s.rx := rfl
@[simp] theorem State.crcUpdate_rxPos (m : List Byte) : (s.crcUpdate m).rxPos = s.rxPos := rfl
@[simp] theorem State.crcUpdate_tx (m : List Byte) : (s.crcUpdate m).tx = s.tx := rfl
@[simp] theorem State.crcUpdate_txTaken (m : List Byte) : (s.crcUpdate m).txTaken = s.txTaken := rfl
@[simp] theorem State.crcUpdate_host (m : List Byte) : (s.crcUpdate m).host = s.host := rfl
@[simp] theorem State.crcUpdate_agenda (m : List Byte) : (s.crcUpdate m).agenda = s.agenda := rfl

/-! ### `popAgenda` -/

@[simp] theorem State.popAgenda_st : s.popAgenda.st = s.st := rfl
@[simp] theorem State.popAgenda_syncIdx : s.popAgenda.syncIdx = s.syncIdx := rfl
@[simp] theorem State.popAgenda_opcode : s.popAgenda.opcode = s.opcode := rfl
@[simp] theorem State.popAgenda_arg : s.popAgenda.arg = s.arg := rfl
@[simp] theorem State.popAgenda_data : s.popAgenda.data = s.data := rfl
@[simp] theorem State.popAgenda_hasSynced : s.popAgenda.hasSynced = s.hasSynced := rfl
@[simp] theorem State.popAgenda_errQueued : s.popAgenda.errQueued = s.errQueued := rfl
@[simp] theorem State.popAgenda_resp : s.popAgenda.resp = s.resp := rfl
@[simp] theorem State.popAgenda_crcAcc : s.popAgenda.crcAcc = s.crcAcc := rfl
@[simp] theorem State.popAgenda_geom : s.popAgenda.geom = s.geom := rfl
@[simp] theorem State.popAgenda_flash : s.popAgenda.flash = s.flash := rfl
@[simp] theorem State.popAgenda_rx : s.popAgenda.rx = s.rx := rfl
@[simp] theorem State.popAgenda_rxPos : s.popAgenda.rxPos = s.rxPos := rfl
@[simp] theorem State.popAgenda_tx : s.popAgenda.tx = s.tx := rfl
@[simp] theorem State.popAgenda_txTaken : s.popAgenda.txTaken = s.txTaken := rfl
@[simp] theorem State.popAgenda_host : s.popAgenda.host = s.host := rfl
@[simp] theorem State.popAgenda_agenda : s.popAgenda.agenda = s.agenda.tail := rfl

/-! ### `txWrite` -/

@[simp] theorem State.txWrite_st (bs : List Byte) : (s.txWrite bs).st = s.st := rfl
@[simp] theorem State.txWrite_syncIdx (bs : List Byte) : (s.txWrite bs).syncIdx = s.syncIdx := rfl
@[simp] theorem State.txWrite_opcode (bs : List Byte) : (s.txWrite bs).opcode = s.opcode := rfl
@[simp] theorem State.txWrite_arg (bs : List Byte) : (s.txWrite bs).arg = s.arg := rfl
@[simp] theorem State.txWrite_data (bs : List Byte) : (s.txWrite bs).data = s.data := rfl
@[simp] theorem State.txWrite_hasSynced (bs : List Byte) : (s.txWrite bs).hasSynced = s.hasSynced := rfl
@[simp] theorem State.txWrite_errQueued (bs : List Byte) : (s.txWrite bs).errQueued = s.errQueued := rfl
@[simp] theorem State.txWrite_resp (bs : List Byte) : (s.txWrite bs).resp = s.resp := rfl
@[simp] theorem State.txWrite_crcAcc (bs : List Byte) : (s.txWrite bs).crcAcc = s.crcAcc := rfl
@[simp] theorem State.txWrite_geom (bs : List Byte) : (s.txWrite bs).geom = s.geom := rfl
@[simp] theorem State.txWrite_flash (bs : List Byte) : (s.txWrite bs).flash = s.flash := rfl
@[simp] theorem State.txWrite_rx (bs : List Byte) : (s.txWrite bs).rx = s.rx := rfl
@[simp] theorem State.txWrite_rxPos (bs : List Byte) : (s.txWrite bs).rxPos = s.rxPos := rfl
@[simp] theorem State.txWrite_tx (bs : List Byte) : (s.txWrite bs).tx = s.tx ++ bs := rfl
@[simp] theorem State.txWrite_txTaken (bs : List Byte) : (s.txWrite bs).txTaken = s.txTaken := rfl
@[simp] theorem State.txWrite_host (bs : List Byte) : (s.txWrite bs).host = s.host := rfl
@[simp] theorem State.txWrite_agenda (bs : List Byte) : (s.txWrite bs).agenda = s.agenda := rfl

/-! ### `withFlash` -/

@[simp] theorem State.withFlash_st (f : Flash) : (s.withFlash f).st = s.st := rfl
@[simp] theorem State.withFlash_syncIdx (f : Flash) : (s.withFlash f).syncIdx = s.syncIdx := rfl
@[simp] theorem State.withFlash_opcode (f : Flash) : (s.withFlash f).opcode = s.opcode := rfl
@[simp] theorem State.withFlash_arg (f : Flash) : (s.withFlash f).arg = s.arg := rfl
@[simp] theorem State.withFlash_data (f : Flash) : (s.withFlash f).data = s.data := rfl
@[simp] theorem State.withFlash_hasSynced (f : Flash) : (s.withFlash f).hasSynced = s.hasSynced := rfl
@[simp] theorem State.withFlash_errQueued (f : Flash) : (s.withFlash f).errQueued = s.errQueued := rfl
@[simp] theorem State.withFlash_resp (f : Flash) : (s.withFlash f).resp = s.resp := rfl
@[simp] theorem State.withFlash_crcAcc (f : Flash) : (s.withFlash f).crcAcc = s.crcAcc := rfl
@[simp] theorem State.withFlash_geom (f : Flash) : (s.withFlash f).geom = s.geom := rfl
@[simp] theorem State.withFlash_flash (f : Flash) : (s.withFlash f).flash = f := rfl
@[simp] theorem State.withFlash_rx (f : Flash) : (s.withFlash f).rx = s.rx := rfl
@[simp] theorem State.withFlash_rxPos (f : Flash) : (s.withFlash f).rxPos = s.rxPos := rfl
@[simp] theorem State.withFlash_tx (f : Flash) : (s.withFlash f).tx = s.tx := rfl
@[simp] theorem State.withFlash_txTaken (f : Flash) : (s.withFlash f).txTaken = s.txTaken := rfl
@[simp] theorem State.withFlash_host (f : Flash) : (s.withFlash f).host = s.host := rfl
@[simp] theorem State.withFlash_agenda (f : Flash) : (s.withFlash f).agenda = s.agenda := rfl

/-! ### `raise` -/

@[simp] theorem State.raise_st : s.raise.st = .error := rfl
@[simp] theorem State.raise_syncIdx : s.raise.syncIdx = s.syncIdx := rfl
@[simp] theorem State.raise_opcode : s.raise.opcode = s.opcode := rfl
@[simp] theorem State.raise_arg : s.raise.arg = s.arg := rfl
@[simp] theorem State.raise_data : s.raise.data = s.data := rfl
@[simp] theorem State.raise_hasSynced : s.raise.hasSynced = s.hasSynced := rfl
@[simp] theorem State.raise_errQueued : s.raise.errQueued = some .err := rfl
@[simp] theorem State.raise_resp : s.raise.resp = s.resp := rfl
@[simp] theorem State.raise_crcAcc : s.raise.crcAcc = s.crcAcc := rfl
@[simp] theorem State.raise_geom : s.raise.geom = s.geom := rfl
@[simp] theorem State.raise_flash : s.raise.flash = s.flash := rfl
@[simp] theorem State.raise_rx : s.raise.rx = s.rx := rfl
@[simp] theorem State.raise_rxPos : s.raise.rxPos = s.rxPos := rfl
@[simp] theorem State.raise_tx : s.raise.tx = s.tx := rfl
@[simp] theorem State.raise_txTaken : s.raise.txTaken = s.txTaken := rfl
@[simp] theorem State.raise_host : s.raise.host = s.host := rfl
@[simp] theorem State.raise_agenda : s.raise.agenda = s.agenda := rfl

/-! ### `sessionReset` -/

@[simp] theorem State.sessionReset_st : s.sessionReset.st = .waitSync := rfl
@[simp] theorem State.sessionReset_syncIdx : s.sessionReset.syncIdx = 0 := rfl
@[simp] theorem State.sessionReset_opcode : s.sessionReset.opcode = none := rfl
@[simp] theorem State.sessionReset_arg : s.sessionReset.arg = .empty := rfl
@[simp] theorem State.sessionReset_data : s.sessionReset.data = [] := rfl
@[simp] theorem State.sessionReset_hasSynced : s.sessionReset.hasSynced = false := rfl
@[simp] theorem State.sessionReset_errQueued : s.sessionReset.errQueued = none := rfl
@[simp] theorem State.sessionReset_resp : s.sessionReset.resp = .empty := rfl
@[simp] theorem State.sessionReset_crcAcc : s.sessionReset.crcAcc = s.crcAcc := rfl
@[simp] theorem State.sessionReset_geom : s.sessionReset.geom = s.geom := rfl
@[simp] theorem State.sessionReset_flash : s.sessionReset.flash = s.flash := rfl
@[simp] theorem State.sessionReset_rx : s.sessionReset.rx = s.rx := rfl
@[simp] theorem State.sessionReset_rxPos : s.sessionReset.rxPos = s.rxPos := rfl
@[simp] theorem State.sessionReset_tx : s.sessionReset.tx = s.tx := rfl
@[simp] theorem State.sessionReset_txTaken : s.sessionReset.txTaken = s.txTaken := rfl
@[simp] theorem State.sessionReset_host : s.sessionReset.host = s.host := rfl
@[simp] theorem State.sessionReset_agenda : s.sessionReset.agenda = s.agenda := rfl

/-! ### `acceptSync` -/

@[simp] theorem State.acceptSync_st : s.acceptSync.st = .readOpcode := rfl
@[simp] theorem State.acceptSync_syncIdx : s.acceptSync.syncIdx = 0 := rfl
@[simp] theorem State.acceptSync_opcode : s.acceptSync.opcode = s.opcode := rfl
@[simp] theorem State.acceptSync_arg : s.acceptSync.arg = s.arg := rfl
@[simp] theorem State.acceptSync_data : s.acceptSync.data = s.data := rfl
@[simp] theorem State.acceptSync_hasSynced : s.acceptSync.hasSynced = true := rfl
@[simp] theorem State.acceptSync_errQueued : s.acceptSync.errQueued = s.errQueued := rfl
@[simp] theorem State.acceptSync_resp : s.acceptSync.resp = s.resp := rfl
@[simp] theorem State.acceptSync_crcAcc : s.acceptSync.crcAcc = s.crcAcc := rfl
@[simp] theorem State.acceptSync_geom : s.acceptSync.geom = s.geom := rfl
@[simp] theorem State.acceptSync_flash : s.acceptSync.flash = s.flash := rfl
@[simp] theorem State.acceptSync_rx : s.acceptSync.rx = s.rx := rfl
@[simp] theorem State.acceptSync_rxPos : s.acceptSync.rxPos = s.rxPos := rfl
@[simp] theorem State.acceptSync_tx : s.acceptSync.tx = s.tx ++ Status.pico.tag.bytes := rfl
@[simp] theorem State.acceptSync_txTaken : s.acceptSync.txTaken = s.txTaken := rfl
@[simp] theorem State.acceptSync_host : s.acceptSync.host = s.host := rfl
@[simp] theorem State.acceptSync_agenda : s.acceptSync.agenda = s.agenda := rfl

/-! ### `endByTransport` -/

@[simp] theorem State.endByTransport_st : s.endByTransport.st = .ended .byTransport := rfl
@[simp] theorem State.endByTransport_syncIdx : s.endByTransport.syncIdx = s.syncIdx := rfl
@[simp] theorem State.endByTransport_opcode : s.endByTransport.opcode = s.opcode := rfl
@[simp] theorem State.endByTransport_arg : s.endByTransport.arg = s.arg := rfl
@[simp] theorem State.endByTransport_data : s.endByTransport.data = s.data := rfl
@[simp] theorem State.endByTransport_hasSynced : s.endByTransport.hasSynced = true := rfl
@[simp] theorem State.endByTransport_errQueued : s.endByTransport.errQueued = none := rfl
@[simp] theorem State.endByTransport_resp : s.endByTransport.resp = s.resp := rfl
@[simp] theorem State.endByTransport_crcAcc : s.endByTransport.crcAcc = s.crcAcc := rfl
@[simp] theorem State.endByTransport_geom : s.endByTransport.geom = s.geom := rfl
@[simp] theorem State.endByTransport_flash : s.endByTransport.flash = s.flash := rfl
@[simp] theorem State.endByTransport_rx : s.endByTransport.rx = s.rx := rfl
@[simp] theorem State.endByTransport_rxPos : s.endByTransport.rxPos = s.rxPos := rfl
@[simp] theorem State.endByTransport_tx : s.endByTransport.tx = s.tx := rfl
@[simp] theorem State.endByTransport_txTaken : s.endByTransport.txTaken = s.txTaken := rfl
@[simp] theorem State.endByTransport_host : s.endByTransport.host = s.host := rfl
@[simp] theorem State.endByTransport_agenda : s.endByTransport.agenda = s.agenda := rfl

/-! ### `load` -/

@[simp] theorem State.load_st (i : Instr) : (s.load i).st = .handle := rfl
@[simp] theorem State.load_syncIdx (i : Instr) : (s.load i).syncIdx = s.syncIdx := rfl
@[simp] theorem State.load_opcode (i : Instr) : (s.load i).opcode = some i.tag := rfl
@[simp] theorem State.load_arg (i : Instr) : (s.load i).arg = .write i.args := rfl
@[simp] theorem State.load_data (i : Instr) : (s.load i).data = i.payload := rfl
@[simp] theorem State.load_hasSynced (i : Instr) : (s.load i).hasSynced = s.hasSynced := rfl
@[simp] theorem State.load_errQueued (i : Instr) : (s.load i).errQueued = s.errQueued := rfl
@[simp] theorem State.load_resp (i : Instr) : (s.load i).resp = s.resp := rfl
@[simp] theorem State.load_crcAcc (i : Instr) : (s.load i).crcAcc = s.crcAcc := rfl
@[simp] theorem State.load_geom (i : Instr) : (s.load i).geom = s.geom := rfl
@[simp] theorem State.load_flash (i : Instr) : (s.load i).flash = s.flash := rfl
@[simp] theorem State.load_rx (i : Instr) : (s.load i).rx = s.rx := rfl
@[simp] theorem State.load_rxPos (i : Instr) : (s.load i).rxPos = s.rxPos := rfl
@[simp] theorem State.load_tx (i : Instr) : (s.load i).tx = s.tx := rfl
@[simp] theorem State.load_txTaken (i : Instr) : (s.load i).txTaken = s.txTaken := rfl
@[simp] theorem State.load_host (i : Instr) : (s.load i).host = s.host := rfl
@[simp] theorem State.load_agenda (i : Instr) : (s.load i).agenda = s.agenda := rfl

/-! ### `withHost` -/

@[simp] theorem State.withHost_st (h : HostSide) : (s.withHost h).st = s.st := rfl
@[simp] theorem State.withHost_syncIdx (h : HostSide) : (s.withHost h).syncIdx = s.syncIdx := rfl
@[simp] theorem State.withHost_opcode (h : HostSide) : (s.withHost h).opcode = s.opcode := rfl
@[simp] theorem State.withHost_arg (h : HostSide) : (s.withHost h).arg = s.arg := rfl
@[simp] theorem State.withHost_data (h : HostSide) : (s.withHost h).data = s.data := rfl
@[simp] theorem State.withHost_hasSynced (h : HostSide) : (s.withHost h).hasSynced = s.hasSynced := rfl
@[simp] theorem State.withHost_errQueued (h : HostSide) : (s.withHost h).errQueued = s.errQueued := rfl
@[simp] theorem State.withHost_resp (h : HostSide) : (s.withHost h).resp = s.resp := rfl
@[simp] theorem State.withHost_crcAcc (h : HostSide) : (s.withHost h).crcAcc = s.crcAcc := rfl
@[simp] theorem State.withHost_geom (h : HostSide) : (s.withHost h).geom = s.geom := rfl
@[simp] theorem State.withHost_flash (h : HostSide) : (s.withHost h).flash = s.flash := rfl
@[simp] theorem State.withHost_rx (h : HostSide) : (s.withHost h).rx = s.rx := rfl
@[simp] theorem State.withHost_rxPos (h : HostSide) : (s.withHost h).rxPos = s.rxPos := rfl
@[simp] theorem State.withHost_tx (h : HostSide) : (s.withHost h).tx = s.tx := rfl
@[simp] theorem State.withHost_txTaken (h : HostSide) : (s.withHost h).txTaken = s.txTaken := rfl
@[simp] theorem State.withHost_host (h : HostSide) : (s.withHost h).host = h := rfl
@[simp] theorem State.withHost_agenda (h : HostSide) : (s.withHost h).agenda = s.agenda := rfl

/-! ### `arrive` -/

@[simp] theorem State.arrive_st (bs : List Byte) : (s.arrive bs).st = s.st := rfl
@[simp] theorem State.arrive_syncIdx (bs : List Byte) : (s.arrive bs).syncIdx = s.syncIdx := rfl
@[simp] theorem State.arrive_opcode (bs : List Byte) : (s.arrive bs).opcode = s.opcode := rfl
@[simp] theorem State.arrive_arg (bs : List Byte) : (s.arrive bs).arg = s.arg := rfl
@[simp] theorem State.arrive_data (bs : List Byte) : (s.arrive bs).data = s.data := rfl
@[simp] theorem State.arrive_hasSynced (bs : List Byte) : (s.arrive bs).hasSynced = s.hasSynced := rfl
@[simp] theorem State.arrive_errQueued (bs : List Byte) : (s.arrive bs).errQueued = s.errQueued := rfl
@[simp] theorem State.arrive_resp (bs : List Byte) : (s.arrive bs).resp = s.resp := rfl
@[simp] theorem State.arrive_crcAcc (bs : List Byte) : (s.arrive bs).crcAcc = s.crcAcc := rfl
@[simp] theorem State.arrive_geom (bs : List Byte) : (s.arrive bs).geom = s.geom := rfl
@[simp] theorem State.arrive_flash (bs : List Byte) : (s.arrive bs).flash = s.flash := rfl
@[simp] theorem State.arrive_rx (bs : List Byte) : (s.arrive bs).rx = s.rx ++ bs := rfl
@[simp] theorem State.arrive_rxPos (bs : List Byte) : (s.arrive bs).rxPos = s.rxPos := rfl
@[simp] theorem State.arrive_tx (bs : List Byte) : (s.arrive bs).tx = s.tx := rfl
@[simp] theorem State.arrive_txTaken (bs : List Byte) : (s.arrive bs).txTaken = s.txTaken := rfl
@[simp] theorem State.arrive_host (bs : List Byte) : (s.arrive bs).host = s.host := rfl
@[simp] theorem State.arrive_agenda (bs : List Byte) : (s.arrive bs).agenda = s.agenda := rfl

/-! ### `deliver` -/

@[simp] theorem State.deliver_st (n : Nat) : (s.deliver n).st = s.st := rfl
@[simp] theorem State.deliver_syncIdx (n : Nat) : (s.deliver n).syncIdx = s.syncIdx := rfl
@[simp] theorem State.deliver_opcode (n : Nat) : (s.deliver n).opcode = s.opcode := rfl
@[simp] theorem State.deliver_arg (n : Nat) : (s.deliver n).arg = s.arg := rfl
@[simp] theorem State.deliver_data (n : Nat) : (s.deliver n).data = s.data := rfl
@[simp] theorem State.deliver_hasSynced (n : Nat) : (s.deliver n).hasSynced = s.hasSynced := rfl
@[simp] theorem State.deliver_errQueued (n : Nat) : (s.deliver n).errQueued = s.errQueued := rfl
@[simp] theorem State.deliver_resp (n : Nat) : (s.deliver n).resp = s.resp := rfl
@[simp] theorem State.deliver_crcAcc (n : Nat) : (s.deliver n).crcAcc = s.crcAcc := rfl
@[simp] theorem State.deliver_geom (n : Nat) : (s.deliver n).geom = s.geom := rfl
@[simp] theorem State.deliver_flash (n : Nat) : (s.deliver n).flash = s.flash := rfl
@[simp] theorem State.deliver_rx (n : Nat) : (s.deliver n).rx = s.rx ++ s.host.untaken.take n := rfl
@[simp] theorem State.deliver_rxPos (n : Nat) : (s.deliver n).rxPos = s.rxPos := rfl
@[simp] theorem State.deliver_tx (n : Nat) : (s.deliver n).tx = s.tx := rfl
@[simp] theorem State.deliver_txTaken (n : Nat) : (s.deliver n).txTaken = s.txTaken := rfl
@[simp] theorem State.deliver_host (n : Nat) : (s.deliver n).host = { s.host with txTaken := s.host.txTaken + (s.host.untaken.take n).length } := rfl
@[simp] theorem State.deliver_agenda (n : Nat) : (s.deliver n).agenda = s.agenda := rfl

/-! ### `deliverBack` -/

@[simp] theorem State.deliverBack_st (n : Nat) : (s.deliverBack n).st = s.st := rfl
@[simp] theorem State.deliverBack_syncIdx (n : Nat) : (s.deliverBack n).syncIdx = s.syncIdx := rfl
@[simp] theorem State.deliverBack_opcode (n : Nat) : (s.deliverBack n).opcode = s.opcode := rfl
@[simp] theorem State.deliverBack_arg (n : Nat) : (s.deliverBack n).arg = s.arg := rfl
@[simp] theorem State.deliverBack_data (n : Nat) : (s.deliverBack n).data = s.data := rfl
@[simp] theorem State.deliverBack_hasSynced (n : Nat) : (s.deliverBack n).hasSynced = s.hasSynced := rfl
@[simp] theorem State.deliverBack_errQueued (n : Nat) : (s.deliverBack n).errQueued = s.errQueued := rfl
@[simp] theorem State.deliverBack_resp (n : Nat) : (s.deliverBack n).resp = s.resp := rfl
@[simp] theorem State.deliverBack_crcAcc (n : Nat) : (s.deliverBack n).crcAcc = s.crcAcc := rfl
@[simp] theorem State.deliverBack_geom (n : Nat) : (s.deliverBack n).geom = s.geom := rfl
@[simp] theorem State.deliverBack_flash (n : Nat) : (s.deliverBack n).flash = s.flash := rfl
@[simp] theorem State.deliverBack_rx (n : Nat) : (s.deliverBack n).rx = s.rx := rfl
@[simp] theorem State.deliverBack_rxPos (n : Nat) : (s.deliverBack n).rxPos = s.rxPos := rfl
@[simp] theorem State.deliverBack_tx (n : Nat) : (s.deliverBack n).tx = s.tx := rfl
@[simp] theorem State.deliverBack_txTaken (n : Nat) : (s.deliverBack n).txTaken = s.txTaken + ((s.tx.drop s.txTaken).take n).length := rfl
@[simp] theorem State.deliverBack_host (n : Nat) : (s.deliverBack n).host = { s.host with rx := s.host.rx ++ (s.tx.drop s.txTaken).take n } := rfl
@[simp] theorem State.deliverBack_agenda (n : Nat) : (s.deliverBack n).agenda = s.agenda := rfl

/-! ### `corrupt` -/

@[simp] theorem State.corrupt_st (n : Nat) (bs : List Byte) : (s.corrupt n bs).st = s.st := rfl
@[simp] theorem State.corrupt_syncIdx (n : Nat) (bs : List Byte) : (s.corrupt n bs).syncIdx = s.syncIdx := rfl
@[simp] theorem State.corrupt_opcode (n : Nat) (bs : List Byte) : (s.corrupt n bs).opcode = s.opcode := rfl
@[simp] theorem State.corrupt_arg (n : Nat) (bs : List Byte) : (s.corrupt n bs).arg = s.arg := rfl
@[simp] theorem State.corrupt_data (n : Nat) (bs : List Byte) : (s.corrupt n bs).data = s.data := rfl
@[simp] theorem State.corrupt_hasSynced (n : Nat) (bs : List Byte) : (s.corrupt n bs).hasSynced = s.hasSynced := rfl
@[simp] theorem State.corrupt_errQueued (n : Nat) (bs : List Byte) : (s.corrupt n bs).errQueued = s.errQueued := rfl
@[simp] theorem State.corrupt_resp (n : Nat) (bs : List Byte) : (s.corrupt n bs).resp = s.resp := rfl
@[simp] theorem State.corrupt_crcAcc (n : Nat) (bs : List Byte) : (s.corrupt n bs).crcAcc = s.crcAcc := rfl
@[simp] theorem State.corrupt_geom (n : Nat) (bs : List Byte) : (s.corrupt n bs).geom = s.geom := rfl
@[simp] theorem State.corrupt_flash (n : Nat) (bs : List Byte) : (s.corrupt n bs).flash = s.flash := rfl
@[simp] theorem State.corrupt_rx (n : Nat) (bs : List Byte) : (s.corrupt n bs).rx = s.rx ++ bs := rfl
@[simp] theorem State.corrupt_rxPos (n : Nat) (bs : List Byte) : (s.corrupt n bs).rxPos = s.rxPos := rfl
@[simp] theorem State.corrupt_tx (n : Nat) (bs : List Byte) : (s.corrupt n bs).tx = s.tx := rfl
@[simp] theorem State.corrupt_txTaken (n : Nat) (bs : List Byte) : (s.corrupt n bs).txTaken = s.txTaken := rfl
@[simp] theorem State.corrupt_host (n : Nat) (bs : List Byte) : (s.corrupt n bs).host = { s.host with txTaken := s.host.txTaken + (s.host.untaken.take n).length } := rfl
@[simp] theorem State.corrupt_agenda (n : Nat) (bs : List Byte) : (s.corrupt n bs).agenda = s.agenda := rfl

/-! ### `newFlashing`: the device side is as it was -/

@[simp] theorem State.newFlashing_st (i : Image) (n : Nat) : (s.newFlashing i n).st = s.st := by
  unfold State.newFlashing; split <;> rfl
@[simp] theorem State.newFlashing_syncIdx (i : Image) (n : Nat) : (s.newFlashing i n).syncIdx = s.syncIdx := by
  unfold State.newFlashing; split <;> rfl
@[simp] theorem State.newFlashing_opcode (i : Image) (n : Nat) : (s.newFlashing i n).opcode = s.opcode := by
  unfold State.newFlashing; split <;> rfl
@[simp] theorem State.newFlashing_arg (i : Image) (n : Nat) : (s.newFlashing i n).arg = s.arg := by
  unfold State.newFlashing; split <;> rfl
@[simp] theorem State.newFlashing_data (i : Image) (n : Nat) : (s.newFlashing i n).data = s.data := by
  unfold State.newFlashing; split <;> rfl
@[simp] theorem State.newFlashing_hasSynced (i : Image) (n : Nat) : (s.newFlashing i n).hasSynced = s.hasSynced := by
  unfold State.newFlashing; split <;> rfl
@[simp] theorem State.newFlashing_errQueued (i : Image) (n : Nat) : (s.newFlashing i n).errQueued = s.errQueued := by
  unfold State.newFlashing; split <;> rfl
@[simp] theorem State.newFlashing_resp (i : Image) (n : Nat) : (s.newFlashing i n).resp = s.resp := by
  unfold State.newFlashing; split <;> rfl
@[simp] theorem State.newFlashing_crcAcc (i : Image) (n : Nat) : (s.newFlashing i n).crcAcc = s.crcAcc := by
  unfold State.newFlashing; split <;> rfl
@[simp] theorem State.newFlashing_geom (i : Image) (n : Nat) : (s.newFlashing i n).geom = s.geom := by
  unfold State.newFlashing; split <;> rfl
@[simp] theorem State.newFlashing_flash (i : Image) (n : Nat) : (s.newFlashing i n).flash = s.flash := by
  unfold State.newFlashing; split <;> rfl
@[simp] theorem State.newFlashing_rx (i : Image) (n : Nat) : (s.newFlashing i n).rx = s.rx := by
  unfold State.newFlashing; split <;> rfl
@[simp] theorem State.newFlashing_rxPos (i : Image) (n : Nat) : (s.newFlashing i n).rxPos = s.rxPos := by
  unfold State.newFlashing; split <;> rfl
@[simp] theorem State.newFlashing_tx (i : Image) (n : Nat) : (s.newFlashing i n).tx = s.tx := by
  unfold State.newFlashing; split <;> rfl
@[simp] theorem State.newFlashing_txTaken (i : Image) (n : Nat) : (s.newFlashing i n).txTaken = s.txTaken := by
  unfold State.newFlashing; split <;> rfl
@[simp] theorem State.newFlashing_agenda (i : Image) (n : Nat) : (s.newFlashing i n).agenda = s.agenda := by
  unfold State.newFlashing; split <;> rfl
@[simp] theorem State.newFlashing_host (i : Image) (n : Nat) :
    (s.newFlashing i n).host = if s.host.over then s.host.restart i n else s.host := by
  unfold State.newFlashing; split <;> rfl

end Sys2Proof.Machine
end

