-- ==== Sys2Proof/Laws/Memory.lean ====
section
/-! SUPPORT. The laws of the flash: what a byte reads as after a write (spec/20_memory.md R52), and that every write keeps the
canonical form. Callers cite `Flash.read_write` and `Flash.write_wf`; the lemmas on cells are their parts. -/

namespace Sys2Proof.Machine

theorem cellAt_append (l m : List Host.Cell) (a : Nat) : cellAt (l ++ m) a = (cellAt l a).or (cellAt m a) := by
  induction l with
  | nil => simp [cellAt]
  | cons c l ih => obtain ⟨k, b⟩ := c; by_cases h : k = a <;> simp [cellAt, h, ih]

/-- Cells kept by a test on the address: what is listed at an address that passes stays, at one that fails goes. -/
theorem cellAt_filter (p : Nat → Bool) (l : List Host.Cell) (a : Nat) :
    cellAt (l.filter fun c => p c.1) a = if p a then cellAt l a else none := by
  induction l with
  | nil => simp [cellAt]
  | cons c l ih =>
    obtain ⟨k, b⟩ := c
    by_cases hk : p k <;> by_cases h : k = a <;> simp_all [cellAt]

theorem cellsFor_addr_ge (i : FlashInit) (bs : List Byte) (lo : Nat) :
    ∀ c ∈ cellsFor i lo bs, lo ≤ c.1 ∧ c.1 < lo + bs.length := by
  induction bs generalizing lo with
  | nil => simp [cellsFor]
  | cons b bs ih =>
    intro c hc
    simp only [cellsFor] at hc
    split at hc
    · have := ih _ c hc; simp only [List.length_cons]; omega
    · rcases List.mem_cons.mp hc with rfl | hc
      · simp
      · have := ih _ c hc; simp only [List.length_cons]; omega

theorem cellAt_none_of_forall_ne (l : List Host.Cell) (a : Nat) (h : ∀ c ∈ l, c.1 ≠ a) : cellAt l a = none := by
  induction l with
  | nil => rfl
  | cons c l ih => obtain ⟨k, b⟩ := c; simp_all [cellAt]

/-- A run of bytes, read through FLASH_INIT, gives byte `a - lo`. -/
theorem cellAt_cellsFor (i : FlashInit) (bs : List Byte) (lo a : Nat) (h : lo ≤ a) :
    (cellAt (cellsFor i lo bs) a).getD (initByte i a) = bs.getD (a - lo) (initByte i a) := by
  induction bs generalizing lo with
  | nil => simp [cellsFor, cellAt]
  | cons b bs ih =>
    rcases Nat.eq_or_lt_of_le h with rfl | hlt
    · have hn : cellAt (cellsFor i (lo + 1) bs) lo = none :=
        cellAt_none_of_forall_ne _ _ fun c hc => by have := cellsFor_addr_ge i bs (lo + 1) c hc; omega
      simp only [cellsFor]
      split <;> simp_all [cellAt]
    · have hs : a - lo = (a - (lo + 1)) + 1 := by omega
      simp only [cellsFor]
      split
      · rw [ih _ hlt, hs]; rfl
      · simp only [cellAt, if_neg (Nat.ne_of_lt hlt)]; rw [ih _ hlt, hs]; rfl

@[simp] theorem Flash.write_init (f : Flash) (lo : Nat) (bs : List Byte) : (f.write lo bs).init = f.init := rfl

theorem cellAt_cellsFor_outside (i : FlashInit) (bs : List Byte) (lo a : Nat) (h : a < lo ∨ lo + bs.length ≤ a) :
    cellAt (cellsFor i lo bs) a = none :=
  cellAt_none_of_forall_ne _ _ fun c hc => by have := cellsFor_addr_ge i bs lo c hc; omega

/-- R52: a write replaces the bytes it names, and no other. -/
theorem Flash.read_write (f : Flash) (lo : Nat) (bs : List Byte) (a : Nat) :
    (f.write lo bs).read a = if lo ≤ a ∧ a < lo + bs.length then bs.getD (a - lo) 0 else f.read a := by
  have hbelow := cellAt_filter (fun k => decide (k < lo)) f.cells a
  have habove := cellAt_filter (fun k => decide (lo + bs.length ≤ k)) f.cells a
  simp only [decide_eq_true_eq] at hbelow habove
  unfold Flash.read Flash.write
  simp only [cellAt_append, hbelow, habove]
  by_cases h1 : a < lo
  · rw [if_pos h1, if_neg (by omega), if_neg (by omega), cellAt_cellsFor_outside _ _ _ _ (.inl h1)]
    simp
  · by_cases h2 : lo + bs.length ≤ a
    · rw [if_neg h1, if_pos h2, if_neg (by omega), cellAt_cellsFor_outside _ _ _ _ (.inr h2)]
      simp
    · rw [if_neg h1, if_neg h2, if_pos (by omega)]
      simp only [Option.or_none, Option.none_or]
      rw [cellAt_cellsFor _ _ _ _ (by omega)]
      simp [List.getD_eq_getElem?_getD, List.getElem?_eq_getElem (show a - lo < bs.length by omega)]

theorem cellsFor_pairwise (i : FlashInit) (bs : List Byte) (lo : Nat) :
    (cellsFor i lo bs).Pairwise fun c d => c.1 < d.1 := by
  induction bs generalizing lo with
  | nil => simp [cellsFor]
  | cons b bs ih =>
    simp only [cellsFor]
    split
    · exact ih _
    · exact List.pairwise_cons.mpr ⟨fun c hc => by have := cellsFor_addr_ge i bs (lo + 1) c hc; simp only; omega, ih _⟩

theorem cellsFor_ne_init (i : FlashInit) (bs : List Byte) (lo : Nat) : ∀ c ∈ cellsFor i lo bs, c.2 ≠ initByte i c.1 := by
  induction bs generalizing lo with
  | nil => simp [cellsFor]
  | cons b bs ih =>
    intro c hc
    simp only [cellsFor] at hc
    split at hc
    · exact ih _ c hc
    · rcases List.mem_cons.mp hc with rfl | hc
      · assumption
      · exact ih _ c hc

/-- The canonical form, as a proposition. -/
theorem Flash.wf_iff (f : Flash) :
    f.wf = true ↔ f.cells.Pairwise (fun c d => c.1 < d.1) ∧ ∀ c ∈ f.cells, c.2 ≠ initByte f.init c.1 := by
  simp [Flash.wf]

/-- Every write keeps the canonical form. -/
theorem Flash.write_wf (f : Flash) (lo : Nat) (bs : List Byte) (h : f.wf = true) : (f.write lo bs).wf = true := by
  rw [Flash.wf_iff] at h ⊢
  obtain ⟨hp, hn⟩ := h
  refine ⟨?_, ?_⟩
  · simp only [Flash.write, List.pairwise_append, List.mem_append, List.mem_filter, decide_eq_true_eq]
    refine ⟨⟨hp.filter _, cellsFor_pairwise _ _ _, fun c hc d hd => ?_⟩, hp.filter _, fun c hc d hd => ?_⟩
    · have := cellsFor_addr_ge _ _ _ d hd; omega
    · rcases hc with hc | hc
      · omega
      · have := cellsFor_addr_ge _ _ _ c hc; omega
  · intro c hc
    simp only [Flash.write, List.mem_append, List.mem_filter] at hc
    rcases hc with (hc | hc) | hc
    · exact hn c hc.1
    · exact cellsFor_ne_init _ _ _ c hc
    · exact hn c hc.1

/-- An address listed after a write was listed before or is one of those written. -/
theorem Flash.mem_write {f : Flash} {lo : Nat} {bs : List Byte} {c : Host.Cell} (h : c ∈ (f.write lo bs).cells) :
    c ∈ f.cells ∨ lo ≤ c.1 ∧ c.1 < lo + bs.length := by
  simp only [Flash.write, List.mem_append, List.mem_filter] at h
  rcases h with (h | h) | h
  · exact .inl h.1
  · exact .inr (cellsFor_addr_ge _ _ _ c h)
  · exact .inl h.1

/-- The range clipped, as a whole: the ends lie in the populated range and in the range asked for. -/
theorem State.clip_bounds (s : State) (addr len : Word) (a : Nat) :
    (s.clipLo addr ≤ a ∧ a < s.clipHi addr len)
      ↔ (addr.toNat ≤ a ∧ a < addr.toNat + len.toNat) ∧ s.populated a = true := by
  simp only [State.clipLo, State.clipHi, State.populated, Bool.and_eq_true, decide_eq_true_eq]
  omega

end Sys2Proof.Machine
end

