-- ==== Sys2Proof/Laws/Ops.lean ====
section
/-! SUPPORT. One lemma for each shared operation, saying once what it does: the stream read, the emission of a response, the
clipped range, the register reads. Provers cite these instead of unfolding the operations. -/

namespace Sys2Proof.Machine

/-! ### Moves and streams -/

@[simp] theorem mapNext_next (f : State → State) (s : State) : mapNext f (.next s) = .next (f s) := rfl

theorem mapNext_eq_next {f : State → State} {r : Result} {t : State} :
    mapNext f r = .next t ↔ ∃ s, r = .next s ∧ t = f s := by
  cases r <;> simp [mapNext, eq_comm]

/-- A step is the move at the head of the agenda, taken off after it. -/
theorem step_eq (s : State) : step s = mapNext State.popAgenda (runMove s.mover s) := rfl

/-- R53: `RxRead(n)` answers the first `n` unread bytes and consumes exactly them, and only when they are there. -/
theorem State.rxRead_eq_some {s t : State} {n : Nat} {bs : List Byte} :
    s.rxRead n = some (bs, t) ↔
      n ≤ s.unread.length ∧ bs = s.unread.take n ∧ t = { s with rxPos := s.rxPos + n } := by
  simp only [State.rxRead, Option.ite_none_right_eq_some, Option.some.injEq, Prod.mk.injEq]
  exact ⟨fun ⟨h, a, b⟩ => ⟨h, a.symm, b.symm⟩, fun ⟨h, a, b⟩ => ⟨h, a.symm, b.symm⟩⟩

theorem State.rxRead_eq_none {s : State} {n : Nat} : s.rxRead n = none ↔ s.unread.length < n := by
  simp [State.rxRead]

/-- A read of bytes that stand at the front of the unread ones. -/
theorem State.rxRead_append {s : State} {bs rest : List Byte} (h : s.unread = bs ++ rest) :
    s.rxRead bs.length = some (bs, { s with rxPos := s.rxPos + bs.length }) := by
  simp [State.rxRead, h]

theorem State.unread_length (s : State) : s.unread.length = s.rx.length - s.rxPos := by simp [State.unread]

/-- What stays unread after `n` bytes more are consumed. -/
theorem State.unread_advance {s t : State} {n : Nat} (hr : t.rx = s.rx) (hp : t.rxPos = s.rxPos + n) :
    t.unread = s.unread.drop n := by simp [State.unread, hr, hp]

/-! ### Emission of a response -/

/-- The response registers, read back as far as they were written (R32). -/
theorem RespRegs.read_write (r : Response) (old : RespRegs) (h : r.rargs.length ≤ 5) :
    (old.write r).read r.rargs.length = r := by
  obtain ⟨st, rargs, rdata⟩ := r
  match rargs, h with
  | [], _ => rfl
  | [_], _ => rfl
  | [_, _], _ => rfl
  | [_, _, _], _ => rfl
  | [_, _, _, _], _ => rfl
  | [_, _, _, _, _], _ => rfl
  | _ :: _ :: _ :: _ :: _ :: _ :: l, h => simp only [List.length_cons] at h; omega

/-- R145: a successful response is written whole, the response registers keep it, control goes to `after`, and nothing else
changes. -/
theorem complete_of_success (r : Response) (after : SeqState) (s : State) (h : r.rargs.length ≤ 5) (hs : r.status ≠ .err) :
    complete r after s =
      .next { s with resp := s.resp.write r, tx := s.tx ++ encodeResp r, st := after } := by
  simp [complete, emit, RespRegs.read_write r _ h, hs, State.txWrite]

/-- R145, the path of a failed handler (cause E2): the error is taken and nothing is written. -/
theorem complete_of_failure (r : Response) (after : SeqState) (s : State) (h : r.rargs.length ≤ 5) (hs : r.status = .err) :
    complete r after s = .next { s with resp := s.resp.write r }.raise := by
  simp [complete, emit, RespRegs.read_write r _ h, hs]

/-! ### The clipped range -/

/-- What a clipped store does: the flash changes as `Flash.write` says or not at all, and nothing else changes. -/
theorem State.storeClipped_eq (s : State) (addr len : Word) (run : List Byte) :
    s.storeClipped addr len run = s.withFlash (s.storeClipped addr len run).flash := rfl

theorem State.writeClipped_eq (s : State) (addr len : Word) (bs : List Byte) :
    s.writeClipped addr len bs = s.withFlash (s.writeClipped addr len bs).flash := rfl

theorem State.eraseClipped_eq (s : State) (addr len : Word) :
    s.eraseClipped addr len = s.withFlash (s.eraseClipped addr len).flash := rfl

/-- R165: each byte of the flash after a clipped write of `len` bytes. -/
theorem State.read_writeClipped (s : State) (addr len : Word) (bs : List Byte) (h : bs.length = len.toNat) (a : Nat) :
    (s.writeClipped addr len bs).flash.read a =
      if (addr.toNat ≤ a ∧ a < addr.toNat + len.toNat) ∧ s.populated a = true then bs.getD (a - addr.toNat) 0
      else s.flash.read a := by
  have hc := s.clip_bounds addr len a
  unfold State.writeClipped State.storeClipped
  rw [State.withFlash_flash]
  split
  case isTrue hlt =>
    have hlo : addr.toNat ≤ s.clipLo addr := Nat.le_max_left _ _
    have hhi : s.clipHi addr len ≤ addr.toNat + len.toNat := Nat.min_le_left _ _
    have hl : ((bs.drop (s.clipLo addr - addr.toNat)).take (s.clipHi addr len - s.clipLo addr)).length
        = s.clipHi addr len - s.clipLo addr := by simp only [List.length_take, List.length_drop]; omega
    simp only [Flash.read_write, hl]
    by_cases hin : s.clipLo addr ≤ a ∧ a < s.clipHi addr len
    · rw [if_pos (by omega), if_pos (hc.mp hin)]
      have : a - s.clipLo addr < s.clipHi addr len - s.clipLo addr := by omega
      simp only [List.getD_eq_getElem?_getD, List.getElem?_take, if_pos this, List.getElem?_drop]
      congr 2; omega
    · rw [if_neg (by omega), if_neg (fun hh => hin (hc.mpr hh))]
  case isFalse hge => rw [if_neg (fun hh => by have := hc.mpr hh; omega)]

/-- R164: each byte of the flash after a clipped erase. -/
theorem State.read_eraseClipped (s : State) (addr len : Word) (a : Nat) :
    (s.eraseClipped addr len).flash.read a =
      if (addr.toNat ≤ a ∧ a < addr.toNat + len.toNat) ∧ s.populated a = true then erasedByte else s.flash.read a := by
  have hc := s.clip_bounds addr len a
  unfold State.eraseClipped State.storeClipped
  rw [State.withFlash_flash]
  split
  case isTrue hlt =>
    simp only [Flash.read_write, List.length_replicate]
    by_cases hin : s.clipLo addr ≤ a ∧ a < s.clipHi addr len
    · rw [if_pos (by omega), if_pos (hc.mp hin)]
      simp [List.getD_eq_getElem?_getD, show a - s.clipLo addr < s.clipHi addr len - s.clipLo addr by omega]
    · rw [if_neg (by omega), if_neg (fun hh => hin (hc.mpr hh))]
  case isFalse hge => rw [if_neg (fun hh => by have := hc.mpr hh; omega)]

/-- What a flash operation must keep: the canonical form, and nothing at an address that is not populated (R51). -/
def State.FlashOk (s : State) : Prop := s.flash.wf = true ∧ ∀ c ∈ s.flash.cells, s.populated c.1 = true

theorem State.storeClipped_flashOk {s : State} {addr len : Word} {run : List Byte} (h : s.FlashOk)
    (hl : run.length ≤ s.clipHi addr len - s.clipLo addr) : (s.storeClipped addr len run).FlashOk := by
  unfold State.storeClipped
  split
  · refine ⟨Flash.write_wf _ _ _ h.1, fun c hc => (Flash.mem_write hc).elim (h.2 c) fun hh => ?_⟩
    exact ((s.clip_bounds addr len c.1).mp ⟨hh.1, by omega⟩).2
  · exact h

theorem State.writeClipped_flashOk {s : State} (addr len : Word) (bs : List Byte) (h : s.FlashOk) :
    (s.writeClipped addr len bs).FlashOk :=
  State.storeClipped_flashOk h (by simp only [List.length_take]; omega)

theorem State.eraseClipped_flashOk {s : State} (addr len : Word) (h : s.FlashOk) : (s.eraseClipped addr len).FlashOk :=
  State.storeClipped_flashOk h (by simp)

/-- The byte at an address, told by the parts of the state it depends on. -/
theorem State.byteAt_of_geom {s t : State} (h : t.geom = s.geom) (a : Nat) :
    t.byteAt a = if s.populated a then some (t.flash.read a) else none := by
  unfold State.byteAt State.populated State.memLo State.memHi; rw [h]

/-- What a state shows of the flash when one range of it has changed. -/
theorem State.byteAt_of_range {s t : State} {lo hi : Nat} {v : Nat → Byte} (hg : t.geom = s.geom)
    (h : ∀ a, t.flash.read a = if (lo ≤ a ∧ a < hi) ∧ s.populated a = true then v a else s.flash.read a) :
    (∀ a, lo ≤ a → a < hi → s.populated a = true → t.byteAt a = some (v a))
      ∧ ∀ a, (a < lo ∨ hi ≤ a ∨ s.populated a = false) → t.byteAt a = s.byteAt a := by
  constructor
  · intro a h1 h2 h3
    rw [State.byteAt_of_geom hg, if_pos h3, h, if_pos ⟨⟨h1, h2⟩, h3⟩]
  · intro a ha
    rw [State.byteAt_of_geom hg, State.byteAt_of_geom (s := s) (t := s) rfl]
    cases hp : s.populated a
    · rfl
    · have hn : ¬((lo ≤ a ∧ a < hi) ∧ s.populated a = true) := by simp only [hp, Bool.true_eq_false, or_false] at ha; omega
      rw [h, if_neg hn]

/-! ### Registers -/

/-- READ_OPCODE lets a table tag through, and READ_ARGS finds its opcode (R40). -/
theorem State.heldOpcode_of_tag {s : State} {op : Opcode} (h : s.opcode = some op.tag) : s.heldOpcode = .ok op := by
  simp [State.heldOpcode, h, opcodeOf_tag]

/-- What READ_ARGS, READ_DATA and HANDLE read in `opcode`: the opcode of its tag, a free one where it holds no value. -/
theorem State.heldOpcode_eq_ok {s : State} {op : Opcode} :
    s.heldOpcode = .ok op ↔ s.opcode = some op.tag ∨ s.opcode = none ∧ op = Config.unheldOpcode := by
  unfold State.heldOpcode
  constructor
  · intro h
    split at h
    · rename_i hn; cases h; exact .inr ⟨hn, rfl⟩
    · rename_i t ht
      split at h
      · cases h
      · rename_i op' hop; cases h; rw [ht, tag_of_opcodeOf hop]; exact .inl rfl
  · rintro (h | ⟨h, rfl⟩)
    · simp [h, opcodeOf_tag]
    · simp [h]

/-- The opcode held is that of a table tag exactly where the register holds one. -/
theorem State.tableOpcode_eq_some {s : State} {op : Opcode} : s.tableOpcode = some op ↔ s.opcode = some op.tag := by
  unfold State.tableOpcode
  cases h : s.opcode with
  | none => simp
  | some t =>
    simp only [Option.bind_some, Option.some.injEq]
    exact ⟨fun hop => (tag_of_opcodeOf hop).symm, fun e => by rw [e, opcodeOf_tag]⟩

/-- The argument registers, read back as far as they were written (R143). -/
theorem ArgRegs.read_write (ws : List Word) (h : ws.length ≤ 3) : (ArgRegs.write ws).read ws.length = ws := by
  match ws, h with
  | [], _ => rfl
  | [_], _ => rfl
  | [_, _], _ => rfl
  | [_, _, _], _ => rfl
  | _ :: _ :: _ :: _ :: l, h => simp only [List.length_cons] at h; omega

/-- READ_ARGS leaves a value in each register it writes (R22). -/
theorem ArgRegs.holds_write (ws : List Word) : (ArgRegs.write ws).holds ws.length = true := by
  match ws with
  | [] => rfl
  | [_] => rfl
  | [_, _] => rfl
  | _ :: _ :: _ :: l => simp [ArgRegs.holds, ArgRegs.write]

theorem nargs_le_three (op : Opcode) : op.nargs ≤ 3 := by cases op <;> decide

/-- As many arguments are read as the table says. -/
theorem ArgRegs.read_length (g : ArgRegs) (op : Opcode) : (g.read op.nargs).length = op.nargs := by
  have := nargs_le_three op; simp only [ArgRegs.read, List.length_take, List.length_cons, List.length_nil]; omega

end Sys2Proof.Machine
end

