-- ==== Sys2Proof/Laws/Exec.lean ====
section
/-! SUPPORT. What the meanings and the agents' steps can do, said once: a command always answers a next state and touches no
more than `CommandFrame` leaves; a move of the host changes the host side only. Invariants are derived from these. -/

namespace Sys2Proof.Machine

/-- What one command does to one state: the frame of R160, the response, the next sequencer state, and the flash. -/
structure CommandEffect (i : Instr) (s t : State) : Prop where
  frame     : s.CommandFrame t
  st        : t.st = if i.opcode = some .gogo then .ended .byGo else .readOpcode
  response  : ∃ r : Response, r.status ≠ .err ∧ t.tx = s.tx ++ encodeResp r
                ∧ (i.opcode = some .gogo → r = { status := .okok, rargs := [], rdata := [] })
  flashOk   : s.FlashOk → t.FlashOk
  flashKept : i.opcode ≠ some .eras → i.opcode ≠ some .writ → t.flash = s.flash

/-- A successful response completed over a state that differs from `s` in flash and accumulator only. -/
theorem complete_effect {i : Instr} {s s1 : State} {r : Response} (h5 : r.rargs.length ≤ 5) (hs : r.status ≠ .err)
    (hgo : i.opcode = some .gogo → r = { status := .okok, rargs := [], rdata := [] })
    (h1 : s1 = { s with flash := s1.flash, crcAcc := s1.crcAcc }) (hok : s.FlashOk → s1.FlashOk)
    (hkept : i.opcode ≠ some .eras → i.opcode ≠ some .writ → s1.flash = s.flash) :
    ∃ t, complete r (if i.opcode = some .gogo then .ended .byGo else .readOpcode) s1 = .next t ∧ CommandEffect i s t := by
  refine ⟨_, complete_of_success r _ _ h5 hs, ?_, rfl, ⟨r, hs, ?_, hgo⟩, hok, hkept⟩
  · constructor <;> (rw [h1])
  · rw [h1]

/-- R160: "Every handler of this spec returns a success status for every input": a command, which is a well-formed record
(R120), never stops. -/
theorem exec_command {i : Instr} (h : i.isCommand = true) (hw : i.wellFormed = true) (s : State) : ∃ t, exec i s = .next t ∧ CommandEffect i s t := by
  cases i with
  | sync =>
    exact complete_effect (i := .sync) (r := ⟨.pico, [], []⟩) (by decide) (by decide) (fun h => nomatch h) rfl id fun _ _ => rfl
  | info =>
    exact complete_effect (i := .info) (r := ⟨.okok, [_, _, _, _, _], []⟩) (by simp) (fun h => nomatch h)
      (fun h => nomatch h) rfl id fun _ _ => rfl
  | read a n =>
    exact complete_effect (i := .read a n) (r := ⟨.okok, [], _⟩) (by simp) (fun h => nomatch h) (fun h => nomatch h) rfl id
      fun _ _ => rfl
  | eras a n =>
    exact complete_effect (i := .eras a n) (r := ⟨.okok, [], []⟩) (by decide) (by decide) (fun h => nomatch h)
      rfl (State.eraseClipped_flashOk a n) fun h => absurd rfl h
  | writ a n d =>
    have he : exec (.writ a n d) s = complete ⟨.okok, [crcFinal (s.crcInit.crcUpdate d).crcAcc], []⟩ .readOpcode
        ((s.crcInit.crcUpdate d).writeClipped a n d) := if_pos hw
    rw [he]
    exact complete_effect (i := .writ a n d) (r := ⟨.okok, [_], []⟩) (by simp) (fun h => nomatch h) (fun h => nomatch h)
      rfl
      (fun hok => State.writeClipped_flashOk a n d (s := s.crcInit.crcUpdate d) hok) fun _ h => absurd rfl h
  | sealImage a n c =>
    exact complete_effect (i := .sealImage a n c) (r := ⟨.okok, [], []⟩) (by decide) (by decide) (fun h => nomatch h) rfl id
      fun _ _ => rfl
  | gogo a =>
    exact complete_effect (i := .gogo a) (r := ⟨.okok, [], []⟩) (by decide) (by decide) (fun _ => rfl) rfl id fun _ _ => rfl
  | okok _ _ => exact nomatch h
  | err => exact nomatch h
  | pico => exact nomatch h

/-- R121: a `WRIT` record whose payload has not the announced length is no command. -/
theorem exec_writ_illFormed {addr len : Word} {data : List Byte} (h : (Instr.writ addr len data).wellFormed = false) (s : State) :
    exec (.writ addr len data) s = .refused .illFormedCommand := if_neg (by simp [h])

/-! ### Responses -/

/-- R204: a response frame that the device side reads takes the error. -/
theorem exec_status_at_device {s : State} (h : s.mover ≠ .host) (st : Status) : exec (statusInstr st) s = .next s.raise := by
  have hm : ∀ m : Move, m ≠ .host → (match m with
      | .host => hostTakeErr s
      | .device | .deliver _ | .deliverBack _ | .arrive _ | .corrupt _ _ | .failDevice | .failHost _ | .newSession _
      | .newFlashing _ _ => .next s.raise) = .next s.raise := by intro m; cases m <;> simp
  cases st <;> simp only [exec, statusInstr, execOkok, execErr, execPico] <;> cases hs : s.mover <;> simp_all

/-- Whatever the host makes of a response, only its own side changes. -/
theorem hostTakeOk_host {rargs : List Word} {rdata : List Byte} {s t : State} (h : hostTakeOk rargs rdata s = .next t) :
    t = s.withHost t.host := by
  unfold hostTakeOk at h
  split at h <;> (try split at h) <;> (try split at h) <;> cases h <;> rfl

theorem hostTakeErr_host {s t : State} (h : hostTakeErr s = .next t) : t = s.withHost t.host := by
  unfold hostTakeErr at h
  split at h <;> cases h <;> rfl

theorem hostProtocolError_host {tag : Tag} {s t : State} (h : hostProtocolError tag s = .next t) : t = s.withHost t.host := by
  unfold hostProtocolError at h
  split at h <;> cases h <;> rfl

theorem hostTakePico_host {s t : State} (h : hostTakePico s = .next t) : t = s.withHost t.host := by
  unfold hostTakePico at h
  split at h
  · cases h; rfl
  all_goals exact hostProtocolError_host h

/-- What `exec` is for a response record that the host has read. -/
theorem exec_response_at_host {s : State} (h : s.mover = .host) (r : Response) :
    exec r.toInstr s =
      match r.status with
      | .okok => hostTakeOk r.rargs r.rdata s
      | .err => hostTakeErr s
      | .pico => hostTakePico s := by
  obtain ⟨st, rargs, rdata⟩ := r
  cases st <;> simp [Response.toInstr, exec, execOkok, execErr, execPico, h]

theorem exec_response_host {s t : State} (hm : s.mover = .host) {r : Response} (h : exec r.toInstr s = .next t) :
    t = s.withHost t.host := by
  rw [exec_response_at_host hm] at h
  split at h
  · exact hostTakeOk_host h
  · exact hostTakeErr_host h
  · exact hostTakePico_host h

end Sys2Proof.Machine
end

