-- ==== Sys2Proof/Laws/Agents.lean ====
section
/-! SUPPORT. What one step of each agent can do, said once. `deviceStep_cases` inverts a step of the device side,
`hostStep_cases` one of the host and `step_cases` one of the machine; the statements about every step are derived from these. -/

namespace Sys2Proof.Machine

/-! ### The device side -/

/-- A move of the device side, with the move taken off after it. -/
theorem step_device {s : State} (h : s.mover = .device) : step s = mapNext State.popAgenda (deviceStep s) := by
  rw [step_eq, h]; rfl

/-- A move of the host, with the move taken off after it. -/
theorem step_host {s : State} (h : s.mover = .host) : step s = mapNext State.popAgenda (hostStep s) := by
  rw [step_eq, h]; rfl

/-- Where READ_OPCODE finds a tag at the front of the unread bytes (R142). -/
theorem stepReadOpcode_eq {s : State} {t : Tag} {rest : List Byte} (hu : s.unread = t.bytes ++ rest) :
    stepReadOpcode s =
      match opcodeOf t with
      | some _ => .next { s with rxPos := s.rxPos + 4, opcode := some t, st := .readArgs }
      | none =>
        match statusOf t with
        | some st => exec (statusInstr st) { s with rxPos := s.rxPos + 4, opcode := some t }
        | none => .next ({ s with rxPos := s.rxPos + 4, opcode := some t } : State).raise := by
  have hr : s.rxRead 4 = some (t.bytes, { s with rxPos := s.rxPos + 4 }) := State.rxRead_append hu
  unfold stepReadOpcode
  rw [hr]; rfl

/-- What HANDLE dispatches is a command. -/
theorem State.heldInstr_isCommand {s : State} {i : Instr} (h : s.heldInstr = .ok i) :
    i.isCommand = true ∧ ∃ op, i.opcode = some op ∧ s.heldOpcode = .ok op := by
  unfold State.heldInstr at h
  split at h
  · cases h
  · rename_i op hop
    split at h
    · cases h
    · rename_i j hj
      cases h
      refine ⟨?_, op, ?_, hop⟩ <;> (unfold buildInstr at hj; split at hj <;> cases hj <;> rfl)

/-- R140 to R148: all that a step of the device side can do. -/
theorem deviceStep_cases {s t : State} (hm : s.mover ≠ .host) (h : deviceStep s = .next t) :
    (t = s ∧ (s.waiting = true ∨ ∃ why, s.st = .ended why))
    ∨ (∃ b, s.st = .waitSync ∧ s.unread.head? = some b ∧ t = State.syncByte b { s with rxPos := s.rxPos + 1 })
    ∨ (∃ tag op, s.st = .readOpcode ∧ s.tagAhead = some tag ∧ opcodeOf tag = some op
        ∧ t = { s with rxPos := s.rxPos + 4, opcode := some tag, st := .readArgs })
    ∨ (∃ tag, s.st = .readOpcode ∧ s.tagAhead = some tag ∧ opcodeOf tag = none
        ∧ t = { s with rxPos := s.rxPos + 4, opcode := some tag, errQueued := some .err, st := .error })
    ∨ (∃ op : Opcode, s.st = .readArgs ∧ s.heldOpcode = .ok op ∧ 4 * op.nargs ≤ s.unread.length
        ∧ t = { s with
                  rxPos := s.rxPos + 4 * op.nargs, arg := .write (argsOf (s.unread.take (4 * op.nargs))), st := .readData })
    ∨ (s.st = .readData ∧ s.heldOpcode = .ok .writ ∧ s.arg.read1.toNat ≤ s.unread.length
        ∧ t = { s with rxPos := s.rxPos + s.arg.read1.toNat, data := s.unread.take s.arg.read1.toNat, st := .handle })
    ∨ (∃ op : Opcode, s.st = .readData ∧ s.heldOpcode = .ok op ∧ op ≠ .writ ∧ t = { s with data := [], st := .handle })
    ∨ (∃ i, s.st = .handle ∧ s.heldInstr = .ok i ∧ exec i s = .next t)
    ∨ (s.st = .error ∧ t = (s.txWrite (queuedBytes s.errQueued)).sessionReset) := by
  unfold deviceStep at h
  split at h
  case h_1 hs =>
    unfold stepWaitSync at h
    split at h
    · rename_i b bs s1 hr
      obtain ⟨hl, hb, rfl⟩ := State.rxRead_eq_some.mp hr
      cases h
      refine .inr (.inl ⟨b, hs, ?_, rfl⟩)
      cases hu : s.unread with
      | nil => rw [hu] at hl; simp at hl
      | cons c l => rw [hu] at hb; simp_all
    · rename_i s1 hr
      obtain ⟨hl, hb, -⟩ := State.rxRead_eq_some.mp hr
      have := congrArg List.length hb
      simp at this; omega
    · rename_i hr
      cases h
      exact .inl ⟨rfl, .inl (by simp [State.waiting, State.wants, hs, State.rxRead_eq_none.mp hr])⟩
  case h_2 hs =>
    cases hta : takeTag s.unread with
    | none =>
      have hl := takeTag_eq_none.mp hta
      unfold stepReadOpcode at h
      rw [State.rxRead_eq_none.mpr hl] at h
      cases h
      exact .inl ⟨rfl, .inl (by simp [State.waiting, State.wants, hs, hl])⟩
    | some p =>
      obtain ⟨tag, rest⟩ := p
      have hahead : s.tagAhead = some tag := by simp [State.tagAhead, hta]
      rw [stepReadOpcode_eq (takeTag_eq_some.mp hta)] at h
      split at h
      · rename_i op hop
        cases h
        exact .inr (.inr (.inl ⟨tag, op, hs, hahead, hop, rfl⟩))
      · rename_i hop
        refine .inr (.inr (.inr (.inl ⟨tag, hs, hahead, hop, ?_⟩)))
        split at h
        · rw [exec_status_at_device (s := { s with rxPos := s.rxPos + 4, opcode := some tag }) hm] at h; cases h; rfl
        · cases h; rfl
  case h_3 hs =>
    unfold stepReadArgs at h
    split at h
    · cases h
    · rename_i op hop
      split at h
      · rename_i raw s1 hr
        obtain ⟨hl, rfl, rfl⟩ := State.rxRead_eq_some.mp hr
        cases h
        exact .inr (.inr (.inr (.inr (.inl ⟨op, hs, hop, hl, rfl⟩))))
      · rename_i hr
        cases h
        exact .inl ⟨rfl, .inl (by simp [State.waiting, State.wants, hs, hop, State.rxRead_eq_none.mp hr])⟩
  case h_4 hs =>
    unfold stepReadData at h
    split at h
    · cases h
    · rename_i op hop
      split at h
      · rename_i hp
        have hw : op = .writ := by cases op <;> first | rfl | exact nomatch hp
        subst hw
        split at h
        · rename_i bytes s1 hr
          obtain ⟨hl, rfl, rfl⟩ := State.rxRead_eq_some.mp hr
          cases h
          exact .inr (.inr (.inr (.inr (.inr (.inl ⟨hs, hop, hl, rfl⟩)))))
        · rename_i hr
          cases h
          exact .inl ⟨rfl, .inl (by
            simp [State.waiting, State.wants, hs, hop, Opcode.hasPayload, State.rxRead_eq_none.mp hr])⟩
      · rename_i hp
        cases h
        exact .inr (.inr (.inr (.inr (.inr (.inr (.inl
          ⟨op, hs, hop, by rintro rfl; exact hp rfl, rfl⟩))))))
  case h_5 hs =>
    unfold stepHandle at h
    split at h
    · cases h
    · rename_i i hi
      exact .inr (.inr (.inr (.inr (.inr (.inr (.inr (.inl ⟨i, hs, hi, h⟩)))))))
  case h_6 hs =>
    cases h
    exact .inr (.inr (.inr (.inr (.inr (.inr (.inr (.inr ⟨hs, rfl⟩)))))))
  case h_7 why hs =>
    cases h
    exact .inl ⟨rfl, .inr ⟨why, hs⟩⟩

/-- What the sync matcher can do with a byte (R141): one more byte matched, a match begun anew or lost, or the tag complete. -/
theorem State.syncByte_cases (b : Byte) (s : State) :
    (∃ k, s.syncByte b = { s with syncIdx := k }) ∨ (b = syncTagByte 3 ∧ s.syncIdx = 3 ∧ s.syncByte b = s.acceptSync) := by
  unfold State.syncByte
  split
  · rename_i hb
    split
    · rename_i h3; rw [h3] at hb; exact .inr ⟨hb, h3, rfl⟩
    · exact .inl ⟨_, rfl⟩
  · split
    · exact .inl ⟨_, rfl⟩
    · exact .inl ⟨_, rfl⟩

/-- What a Transport failure does to the device side (R149): nothing, or the end of the session, in which WAIT_SYNC may have
consumed the byte that completes the tag. -/
theorem deviceFail_cases (s : State) :
    deviceFail s = s ∨ (∀ why, s.st ≠ .ended why)
      ∧ (deviceFail s = s.endByTransport ∨ s.unread ≠ [] ∧ deviceFail s = { s.endByTransport with rxPos := s.rxPos + 1 }) := by
  unfold deviceFail
  split
  · rename_i h
    refine .inr ⟨fun why hw => ?_, .inl rfl⟩
    simp [State.waiting, State.wants, hw] at h
  · split
    · rename_i h
      simp only [State.completesSync, Bool.and_eq_true, decide_eq_true_eq] at h
      refine .inr ⟨fun why hw => ?_, .inr ⟨fun hu => ?_, rfl⟩⟩
      · rw [h.1.1] at hw; cases hw
      · rw [hu] at h; cases h.2
    · split
      · rename_i h; exact .inr ⟨fun why hw => (by rw [h] at hw; cases hw), .inl rfl⟩
      · split
        · rename_i h; exact .inr ⟨fun why hw => (by rw [h] at hw; cases hw), .inl rfl⟩
        · exact .inl rfl

/-! ### The host -/

@[simp] theorem State.withHost_mover (h : HostSide) (s : State) : (s.withHost h).mover = s.mover := rfl
@[simp] theorem State.withHost_withHost (h k : HostSide) (s : State) : (s.withHost h).withHost k = s.withHost k := rfl
theorem State.withHost_self (s : State) : s.withHost s.host = s := rfl

/-- What a read of the host can come to: it waits; or a whole response, or four bytes that are no status, is read and taken. -/
theorem hostRead_cases {s t : State} (h : hostRead s = .next t) :
    t = s ∨ ∃ n, n ≤ s.host.unread.length
      ∧ ((∃ r : Response, exec r.toInstr (s.withHost (s.host.advance n)) = .next t)
        ∨ ∃ tag, hostProtocolError tag (s.withHost (s.host.advance n)) = .next t) := by
  unfold hostRead at h
  split at h
  · cases h; exact .inl rfl
  · split at h
    · cases h; exact .inl rfl
    · rename_i cmd _ hl
      refine (em (t = s)).imp id fun hne => ⟨_, Nat.not_lt.mp hl, ?_⟩
      simp only at h
      split at h
      · exact .inl ⟨_, h⟩
      · split at h
        · exact .inr ⟨_, h⟩
        · cases h; exact absurd rfl hne
      · cases h; exact absurd rfl hne

/-- What going on to the next command can come to (R121): the command sent, from where the host stands then; or the host stops. -/
theorem hostSend_cases {step : HStep} {s t : State} (h : hostSend step s = .next t) :
    (∃ k st cmd, s.host.next step = .send k st cmd ∧ cmd.wellFormed = true ∧ t = s.withHost (k.sendIn st cmd cmd.bytes))
    ∨ ∃ k, s.host.next step = .stop k ∧ t = s.withHost k := by
  unfold hostSend at h
  split at h
  · rename_i k st cmd hn
    split at h
    · rename_i bs he
      obtain ⟨hw, rfl⟩ := encode_eq_some.mp he
      cases h; exact .inl ⟨k, st, cmd, hn, hw, rfl⟩
    · cases h
  · rename_i k hn; cases h; exact .inr ⟨k, hn, rfl⟩
  · cases h

/-- A step of the host changes the host side only. -/
theorem hostStep_host {s t : State} (hm : s.mover = .host) (h : hostStep s = .next t) : t = s.withHost t.host := by
  unfold hostStep at h
  split at h
  · cases h; rfl
  · cases h; rfl
  · split at h
    · obtain rfl | ⟨n, -, ⟨r, h⟩ | ⟨tag, h⟩⟩ := hostRead_cases h
      · rfl
      · have := exec_response_host (s := s.withHost (s.host.advance n)) hm h; exact this
      · have := hostProtocolError_host h; exact this
    · obtain ⟨k, st, cmd, -, -, rfl⟩ | ⟨k, -, rfl⟩ := hostSend_cases h <;> rfl

/-- A Transport failure on the host side changes the host side only. -/
theorem hostFail_host (k : Nat) (s : State) : hostFail k s = s.withHost (hostFail k s).host := by
  unfold hostFail; split <;> rfl

/-- What the host can make of a response or of four bytes that are none (R182, R183, R186 to R190): nothing, where it awaits
none; in Sync the next attempt, `SyncTimeout` or Info; after Info the Pad step; the next command of Erase or Write; after Seal
the Go step; or a fatal error. -/
def HostSide.Takes (h k : HostSide) : Prop :=
  k = h
  ∨ (h.progress = .running .sync ∧ (k = h.attemptFailed ∨ k = { h.goTo .info with synced := true }))
  ∨ (h.progress = .running .info ∧ ∃ dev, k = { h.goTo .pad with dev := some dev })
  ∨ (∃ step n, h.progress = .running step ∧ (step = .erase ∨ step = .write) ∧ k = h.again n)
  ∨ (h.progress = .running .sealImage ∧ k = h.goTo .go)
  ∨ (∃ step e, h.progress = .running step ∧ k = h.fail e)

theorem HostSide.Takes.failed {h : HostSide} {step : HStep} (hp : h.progress = .running step) (e : HostError) :
    h.Takes (h.fail e) := .inr (.inr (.inr (.inr (.inr ⟨step, e, hp, rfl⟩))))

theorem hostTakeOk_takes {rargs : List Word} {rdata : List Byte} {s t : State} (h : hostTakeOk rargs rdata s = .next t) :
    s.host.Takes t.host := by
  unfold hostTakeOk at h
  split at h
  · cases h; exact .inl rfl
  · cases h; exact .inl rfl
  · rename_i hp; cases h; exact .inr (.inl ⟨hp, .inl rfl⟩)
  · rename_i hp
    split at h <;> cases h
    exact .inr (.inr (.inl ⟨hp, _, rfl⟩))
  · cases h; exact .inl rfl
  · cases h; exact .inl rfl
  · rename_i hp
    split at h <;> cases h
    exact .inr (.inr (.inr (.inl ⟨_, _, hp, .inl rfl, rfl⟩)))
  · rename_i hp
    split at h
    · split at h <;> cases h
      · exact .inr (.inr (.inr (.inl ⟨_, _, hp, .inr rfl, rfl⟩)))
      · exact .failed hp _
    · cases h
  · rename_i hp
    split at h <;> cases h
    exact .inr (.inr (.inr (.inr (.inl ⟨hp, rfl⟩))))
  · cases h; exact .inl rfl

theorem hostTakeErr_takes {s t : State} (h : hostTakeErr s = .next t) : s.host.Takes t.host := by
  unfold hostTakeErr at h
  split at h <;> cases h <;> first
    | exact .inl rfl
    | exact .failed (by assumption) _
    | exact .inr (.inl ⟨by assumption, .inl rfl⟩)

theorem hostProtocolError_takes {tag : Tag} {s t : State} (h : hostProtocolError tag s = .next t) : s.host.Takes t.host := by
  unfold hostProtocolError at h
  split at h <;> cases h <;> first
    | exact .inl rfl
    | exact .failed (by assumption) _
    | exact .inr (.inl ⟨by assumption, .inl rfl⟩)

theorem hostTakePico_takes {s t : State} (h : hostTakePico s = .next t) : s.host.Takes t.host := by
  unfold hostTakePico at h
  split at h
  · rename_i hp; cases h; exact .inr (.inl ⟨hp, .inr rfl⟩)
  all_goals exact hostProtocolError_takes h

theorem exec_response_takes {s t : State} (hm : s.mover = .host) {r : Response} (h : exec r.toInstr s = .next t) :
    s.host.Takes t.host := by
  rw [exec_response_at_host hm] at h
  split at h
  · exact hostTakeOk_takes h
  · exact hostTakeErr_takes h
  · exact hostTakePico_takes h

/-- R180, R20: what the sequence does between two commands: it pads, it passes the bounds check, the walk of Erase or of Write is
over. `h` goes on to `k` with nothing sent. -/
inductive HostSide.GoesOn : HostSide → HostSide → Prop
  /-- Nothing is done. -/
  | here (h : HostSide) : GoesOn h h
  /-- R184, R181 b. -/
  | pad {h k : HostSide} (dev : Geometry) (hp : h.progress = .running .pad) (hd : h.dev = some dev) (hw : dev.writeSize ≠ 0)
      (he : dev.eraseSize ≠ 0) (hm : dev.maxDataLen ≠ 0)
      (on : GoesOn { h.goTo .bounds with padded := some (padTo dev.writeSize.toNat h.image.data) } k) : GoesOn h k
  /-- R185. -/
  | bounds {h k : HostSide} (dev : Geometry) (padded : List Byte) (hp : h.progress = .running .bounds) (hd : h.dev = some dev)
      (hpd : h.padded = some padded) (hb : imageOutOfBounds h.image.addr padded.length dev = false)
      (on : GoesOn (h.goTo .erase) k) : GoesOn h k
  /-- R186: no chunk is left. -/
  | erase {h k : HostSide} (dev : Geometry) (padded : List Byte) (hp : h.progress = .running .erase) (hd : h.dev = some dev)
      (hpd : h.padded = some padded) (hc : eraseCmd h.image.addr padded.length dev h.cursor = .nothing)
      (on : GoesOn (h.goTo .write) k) : GoesOn h k
  /-- R187: no chunk is left. -/
  | write {h k : HostSide} (dev : Geometry) (padded : List Byte) (hp : h.progress = .running .write) (hd : h.dev = some dev)
      (hpd : h.padded = some padded) (hc : writeCmd h.image.addr padded dev h.cursor = .nothing)
      (on : GoesOn (h.goTo .sealImage) k) : GoesOn h k

/-- What an answer of `next` may be, of a host that stands where it stands: it has gone on to a step and sends a command of it,
which is what the host sends that stands there; or
it has gone on and stops there, with a fatal error or because the geometry or the padded data is not known; or it
refuses. A `SYNC` is sent only within the budget (R212). -/
def HostSide.NextOk (h : HostSide) : HostNext → Prop
  | .send k st cmd =>
    h.GoesOn k ∧ k.progress = .running st ∧ st.sends cmd = true ∧ (st = .sync → k.attempts < k.maxAttempts)
      ∧ k.next st = .send k st cmd
  | .stop k => ∃ j, h.GoesOn j ∧ (k = j ∧ (j.dev = none ∨ j.padded = none) ∨ ∃ e, k = j.fail e)
  | .refuse _ => True

/-- A step that sends its own command where it stands, or leaves it to what comes after. -/
theorem HostCmd.orNext_ok {c : HostCmd} {h : HostSide} {step : HStep} {after : HostNext} (hp : h.progress = .running step)
    (hn : h.next step = c.orNext h step after)
    (hs : ∀ cmd, c = .send cmd → step.sends cmd = true ∧ (step = .sync → h.attempts < h.maxAttempts))
    (ha : c = .nothing → h.NextOk after) :
    h.NextOk (c.orNext h step after) := by
  cases c with
  | send cmd => exact ⟨.here h, hp, (hs cmd rfl).1, (hs cmd rfl).2, hn⟩
  | nothing => exact ha rfl
  | refuse r => trivial

/-- What one more silent step in front leaves of an answer. -/
theorem HostSide.NextOk.after {h j : HostSide} {n : HostNext} (hj : ∀ k, j.GoesOn k → h.GoesOn k) (hn : j.NextOk n) : h.NextOk n := by
  cases n with
  | send k st cmd => exact ⟨hj k hn.1, hn.2⟩
  | stop k => obtain ⟨i, hi, e⟩ := hn; exact ⟨i, hj i hi, e⟩
  | refuse r => trivial

/-- Two values of which not both are there. -/
theorem none_of_not_both {α β : Type} {x : Option α} {y : Option β} (h : ∀ a b, x = some a → y = some b → False) :
    x = none ∨ y = none := by
  cases x with
  | none => exact .inl rfl
  | some a => cases y with
    | none => exact .inr rfl
    | some b => exact (h a b rfl rfl).elim

theorem HostSide.nextGo_ok {h : HostSide} (hp : h.progress = .running .go) : h.NextOk h.nextGo := by
  refine HostCmd.orNext_ok hp rfl (fun cmd hc => ?_) fun hc => ?_ <;> unfold goCmd at hc <;> split at hc <;> cases hc
  exact ⟨rfl, nofun⟩

theorem HostSide.nextSeal_ok {h : HostSide} (hp : h.progress = .running .sealImage) : h.NextOk h.nextSeal := by
  unfold HostSide.nextSeal
  split
  · rename_i padded hpd
    refine HostCmd.orNext_ok hp (by simp [HostSide.next, HostSide.nextSeal, hpd]) (fun cmd hc => ?_) fun hc => ?_
      <;> unfold sealCmd at hc <;> split at hc <;> cases hc
    exact ⟨rfl, nofun⟩
  · rename_i hn; exact ⟨h, .here h, .inl ⟨rfl, .inr hn⟩⟩

theorem HostSide.nextWrite_ok {h : HostSide} (hp : h.progress = .running .write) : h.NextOk h.nextWrite := by
  unfold HostSide.nextWrite
  split
  · rename_i dev padded hd hpd
    refine HostCmd.orNext_ok hp (by simp [HostSide.next, HostSide.nextWrite, hd, hpd]) (fun cmd hc => ?_) fun hc =>
      HostSide.NextOk.after (fun k on => .write dev padded hp hd hpd hc on) (HostSide.nextSeal_ok rfl)
    unfold writeCmd at hc
    split at hc
    · simp only at hc; split at hc <;> cases hc; exact ⟨rfl, nofun⟩
    · cases hc
  · rename_i hn; exact ⟨h, .here h, .inl ⟨rfl, none_of_not_both hn⟩⟩

theorem HostSide.nextErase_ok {h : HostSide} (hp : h.progress = .running .erase) : h.NextOk h.nextErase := by
  unfold HostSide.nextErase
  split
  · rename_i dev padded hd hpd
    refine HostCmd.orNext_ok hp (by simp [HostSide.next, HostSide.nextErase, hd, hpd]) (fun cmd hc => ?_) fun hc =>
      HostSide.NextOk.after (fun k on => .erase dev padded hp hd hpd hc on) (HostSide.nextWrite_ok rfl)
    unfold eraseCmd at hc
    split at hc
    · split at hc <;> cases hc; exact ⟨rfl, nofun⟩
    · cases hc
  · rename_i hn; exact ⟨h, .here h, .inl ⟨rfl, none_of_not_both hn⟩⟩

theorem HostSide.nextBounds_ok {h : HostSide} (hp : h.progress = .running .bounds) : h.NextOk h.nextBounds := by
  unfold HostSide.nextBounds
  split
  · rename_i dev padded hd hpd
    split
    · exact ⟨h, .here h, .inr ⟨_, rfl⟩⟩
    · rename_i hb
      exact HostSide.NextOk.after (fun k on => .bounds dev padded hp hd hpd (by simpa using hb) on) (HostSide.nextErase_ok rfl)
  · rename_i hn; exact ⟨h, .here h, .inl ⟨rfl, none_of_not_both hn⟩⟩

theorem HostSide.nextPad_ok {h : HostSide} (hp : h.progress = .running .pad) : h.NextOk h.nextPad := by
  unfold HostSide.nextPad
  split
  · rename_i dev hd
    split
    · trivial
    · rename_i hz
      simp only [Bool.or_eq_true, decide_eq_true_eq, not_or] at hz
      exact HostSide.NextOk.after (fun k on => .pad dev hp hd hz.1.1 hz.1.2 hz.2 on) (HostSide.nextBounds_ok rfl)
  · rename_i hn; exact ⟨h, .here h, .inl ⟨rfl, .inl hn⟩⟩

theorem HostSide.nextSync_ok {h : HostSide} (hp : h.progress = .running .sync) : h.NextOk h.nextSync := by
  refine HostCmd.orNext_ok hp rfl (fun cmd hc => ?_) fun _ => ⟨h, .here h, .inr ⟨_, rfl⟩⟩
  unfold syncCmd at hc
  split at hc
  · split at hc <;> cases hc; exact ⟨rfl, fun _ => by assumption⟩
  · cases hc

/-- All that the host can come to when it goes on from the step of the sequence that it is at. -/
theorem HostSide.next_ok {h : HostSide} {step : HStep} (hp : h.progress = .running step) : h.NextOk (h.next step) := by
  cases step
  · exact HostSide.nextSync_ok hp
  · exact ⟨.here h, hp, rfl, nofun, rfl⟩
  · exact HostSide.nextPad_ok hp
  · exact HostSide.nextBounds_ok hp
  · exact HostSide.nextErase_ok hp
  · exact HostSide.nextWrite_ok hp
  · exact HostSide.nextSeal_ok hp
  · exact HostSide.nextGo_ok hp

/-- A step of the sequence that does not read is to send. -/
theorem HostSide.reading_eq_true {h : HostSide} {step : HStep} (hr : h.reading step = true) : h.phase = .response := by
  cases step <;> simp [HostSide.reading] at hr <;> exact hr

/-- R180 to R195: all that a step of the host can do: it waits or is over; it reads and takes a response or four bytes that are
none; it goes on and sends a command; or it goes on and stops. -/
theorem hostStep_cases {s t : State} (hm : s.mover = .host) (h : hostStep s = .next t) :
    t.host = s.host
    ∨ (∃ step n, s.host.progress = .running step ∧ s.host.reading step = true ∧ n ≤ s.host.unread.length
        ∧ (s.host.advance n).Takes t.host)
    ∨ (∃ step k st cmd, s.host.progress = .running step ∧ s.host.reading step = false ∧ s.host.GoesOn k
        ∧ k.progress = .running st ∧ st.sends cmd = true ∧ (st = .sync → k.attempts < k.maxAttempts)
        ∧ k.next st = .send k st cmd ∧ cmd.wellFormed = true ∧ t.host = k.sendIn st cmd cmd.bytes)
    ∨ (∃ step j, s.host.progress = .running step ∧ s.host.reading step = false ∧ s.host.GoesOn j
        ∧ (t.host = j ∧ (j.dev = none ∨ j.padded = none) ∨ ∃ e, t.host = j.fail e)) := by
  unfold hostStep at h
  split at h
  · cases h; exact .inl rfl
  · cases h; exact .inl rfl
  · rename_i step hp
    split at h
    · rename_i hr
      obtain rfl | ⟨n, hn, ⟨r, h⟩ | ⟨tag, h⟩⟩ := hostRead_cases h
      · exact .inl rfl
      · exact .inr (.inl ⟨step, n, hp, hr, hn, exec_response_takes (s := s.withHost (s.host.advance n)) hm h⟩)
      · exact .inr (.inl ⟨step, n, hp, hr, hn, hostProtocolError_takes h⟩)
    · rename_i hr
      have hr' : s.host.reading step = false := by simpa using hr
      have hok := HostSide.next_ok hp
      obtain ⟨k, st, cmd, hn, hw, rfl⟩ | ⟨k, hn, rfl⟩ := hostSend_cases h
      · rw [hn] at hok
        exact .inr (.inr (.inl ⟨step, k, st, cmd, hp, hr', hok.1, hok.2.1, hok.2.2.1, hok.2.2.2.1, hok.2.2.2.2, hw, rfl⟩))
      · rw [hn] at hok
        obtain ⟨j, hj, e⟩ := hok
        exact .inr (.inr (.inr ⟨step, j, hp, hr', hj, e⟩))

/-- What a Transport failure does to the host side (R195): nothing; a failed `write` of `k` bytes of the next command; or a failed
`read` that consumed no more than had arrived. -/
theorem hostFail_cases (k : Nat) (s : State) :
    (hostFail k s).host = s.host
    ∨ ∃ step, s.host.progress = .running step
        ∧ ((∃ j st cmd, s.host.reading step = false ∧ s.host.GoesOn j ∧ j.progress = .running st ∧ st.sends cmd = true
              ∧ (hostFail k s).host = j.failWrite st cmd.bytes k)
          ∨ s.host.reading step = true ∧ (hostFail k s).host = s.host.failRead step k) := by
  unfold hostFail
  split
  · exact .inl rfl
  · exact .inl rfl
  · rename_i step hp
    rw [State.withHost_host]
    unfold HostSide.failIn
    split
    · rename_i hr
      split
      · split
        · exact .inr ⟨step, hp, .inr ⟨hr, rfl⟩⟩
        · exact .inl rfl
      · exact .inl rfl
    · rename_i hr
      have hok := HostSide.next_ok hp
      split
      · rename_i j st cmd hn
        rw [hn] at hok
        split
        · rename_i bs he
          obtain ⟨-, rfl⟩ := encode_eq_some.mp he
          exact .inr ⟨step, hp, .inl ⟨j, st, cmd, by simpa using hr, hok.1, hok.2.1, hok.2.2.1, rfl⟩⟩
        · exact .inl rfl
      · exact .inl rfl
      · exact .inl rfl

/-- A failed read consumes no more than had arrived. -/
theorem HostSide.failRead_consumes (h : HostSide) (k : Nat) :
    h.statusRead + min k (h.unread.length - h.statusRead) ≤ h.unread.length := by
  unfold HostSide.statusRead; split <;> omega

/-! ### Any agent -/

/-- All that a step of the machine can be: one move of one agent, taken off the agenda. -/
theorem step_cases {s t : State} (h : step s = .next t) :
    (s.mover = .device ∧ ∃ u, deviceStep s = .next u ∧ t = u.popAgenda)
    ∨ (s.mover = .host ∧ ∃ u, hostStep s = .next u ∧ t = (s.withHost u.host).popAgenda)
    ∨ (∃ n, s.mover = .deliver n ∧ t = (s.deliver n).popAgenda)
    ∨ (∃ n, s.mover = .deliverBack n ∧ t = (s.deliverBack n).popAgenda)
    ∨ (∃ bs, s.mover = .arrive bs ∧ t = (s.arrive bs).popAgenda)
    ∨ (∃ n bs, s.mover = .corrupt n bs ∧ t = (s.corrupt n bs).popAgenda)
    ∨ (s.mover = .failDevice ∧ t = (deviceFail s).popAgenda)
    ∨ (∃ k, s.mover = .failHost k ∧ t = (s.withHost (hostFail k s).host).popAgenda)
    ∨ (∃ p, s.mover = .newSession p ∧ t = (s.renew p).popAgenda)
    ∨ (∃ i n, s.mover = .newFlashing i n ∧ t = (s.newFlashing i n).popAgenda) := by
  rw [step_eq, mapNext_eq_next] at h
  obtain ⟨u, hu, rfl⟩ := h
  cases hm : s.mover <;> rw [hm] at hu <;> simp only [runMove] at hu
  case device => exact .inl ⟨rfl, u, hu, rfl⟩
  case host => exact .inr (.inl ⟨rfl, u, hu, by rw [← hostStep_host hm hu]⟩)
  all_goals cases hu; simp
  rename_i k
  exact congrArg State.popAgenda (hostFail_host k s)

end Sys2Proof.Machine
end

