-- ==== Sys2Proof/Laws/PerInstr.lean ====
section
/-! SUPPORT. What is said of every instruction as syntax, one lemma per constructor: the length of its frame
(spec/30_encoding.md R83, R87, R90). -/

namespace Sys2Proof.Laws.FrameLength

open Sys2Proof

/-- A well-formed record has an encoding: its tag, four bytes for each argument, and its payload; for a command its length is
`cmd_len` of its opcode and its second argument (R90). An ill-formed record has none (R121). -/
def Statement (i : Instr) : Prop :=
  (i.wellFormed = true → ∃ bs, encode i = some bs ∧ bs.length = 4 + 4 * i.args.length + i.payload.length
    ∧ ∀ op, i.opcode = some op → bs.length = frameLen op (i.args.getD 1 0))
  ∧ (i.wellFormed = false → encode i = none)

/-- The two cases of the encoder, from the length that the table gives a well-formed command. -/
theorem of_length {i : Instr}
    (h : i.wellFormed = true → ∀ op, i.opcode = some op → i.bytes.length = frameLen op (i.args.getD 1 0)) : Statement i :=
  ⟨fun hw => ⟨i.bytes, encode_of_wellFormed hw, Instr.bytes_length i, h hw⟩, encode_of_illFormed⟩

/-- A command without payload: its length is fixed by its opcode. -/
theorem of_plain {i : Instr} {op : Opcode} (hop : i.opcode = some op) (hn : i.args.length = op.nargs)
    (hp : op.hasPayload = false) (hd : i.payload = []) : Statement i :=
  of_length fun _ op' h => by rw [hop] at h; cases h; simp [Instr.bytes_length, frameLen, hn, hp, hd]

/-- A response: its length is no function of a command's table row. -/
theorem of_response {i : Instr} (h : i.opcode = none) : Statement i :=
  of_length fun _ op' h' => by rw [h] at h'; cases h'

theorem sync : Statement .sync := of_plain rfl rfl rfl rfl

theorem info : Statement .info := of_plain rfl rfl rfl rfl

theorem read (addr len : Word) : Statement (.read addr len) := of_plain rfl rfl rfl rfl

theorem eras (addr len : Word) : Statement (.eras addr len) := of_plain rfl rfl rfl rfl

theorem writ (addr len : Word) (data : List Byte) : Statement (.writ addr len data) :=
  of_length fun hw op h => by
    cases h
    have hl : data.length = len.toNat := by simpa [Instr.wellFormed] using hw
    simp [Instr.bytes_length, frameLen, Opcode.nargs, Opcode.hasPayload, Instr.args, Instr.payload, hl]

theorem sealImage (addr len crc : Word) : Statement (.sealImage addr len crc) := of_plain rfl rfl rfl rfl

theorem gogo (addr : Word) : Statement (.gogo addr) := of_plain rfl rfl rfl rfl

theorem okok (rargs : List Word) (rdata : List Byte) : Statement (.okok rargs rdata) := of_response rfl

theorem err : Statement .err := of_response rfl

theorem pico : Statement .pico := of_response rfl

end Sys2Proof.Laws.FrameLength
end

