-- ==== Sys2Proof/Tests/Slice0.lean ====
section
/-! SUPPORT. The model's own tests. Every expected value is written out from spec/95_test_vectors.md (the section is named) or
from the encoding tables of spec/30_encoding.md. Then the witnesses: for each statement with hypotheses a concrete state and
operands that meet them. -/

namespace Sys2Proof.Tests

open Sys2Proof Sys2Proof.Machine

/-! ### Helpers -/

/-- The geometry G8 of spec/95_test_vectors.md. -/
def g8 : Geometry :=
  { flashAddr := 0x10000000, flashSize := 0x01000000, eraseSize := 4096, writeSize := 256, maxDataLen := 256 }

/-- Parameters under G8 with a one-byte image; `0x5A` stands for "init". -/
def params : Params :=
  { geometry := g8, flashInit := { fill := 0x5A, cells := [] }, image := { addr := 0x10000000, data := [0x01] },
    maxSyncAttempts := 1 }

/-- A session in WAIT_SYNC with a match of `i` bytes in progress and bytes unread. -/
def hunting (i : Fin 4) (rx : List Byte) : State := { State.create params with syncIdx := i, rx := rx }

/-- A synchronised session in the state `st`, bytes unread. -/
def synced (st : SeqState) (rx : List Byte) : State :=
  { State.create params with st := st, hasSynced := true, rx := rx }

/-- The flash with the bytes given from an address up. -/
def flashWith (lo : Nat) (bs : List Byte) (s : State) : State := s.withFlash (s.flash.write lo bs)

/-- The host in a step of its sequence, its move next, under G8 and with the padded image of one byte. -/
def hostAt (step : HStep) (phase : HPhase) (sent : Option Instr) : State :=
  let s := State.create params
  { s with
    agenda := [.host]
    host :=
      { s.host with
        progress := .running step, phase := phase, sent := sent, dev := some g8, padded := some (padTo 256 [0x01]),
        attempts := 1, synced := decide (step ≠ .sync) } }

/-- Whether a step or a meaning answers a next state with a property. -/
def nextHas (r : Result) (p : State → Bool) : Bool :=
  match r with
  | .next s => p s
  | .fault _ => false
  | .refused _ => false

/-! ### WellFormed: each check has an ill-formed term that it refuses -/

theorem test_wf_writ_short : (Instr.writ 0 4 [0x01, 0x02]).wellFormed = false := by decide
theorem test_wf_writ_long : (Instr.writ 0 0 [0x01]).wellFormed = false := by decide
theorem test_wf_okok_two_args : (Instr.okok [1, 2] []).wellFormed = false := by decide
theorem test_wf_okok_args_and_payload : (Instr.okok [1] [0x00]).wellFormed = false := by decide
theorem test_wf_accepts : (Instr.writ 0xFFFFFFFF 1 [0xAA]).wellFormed = true ∧ (Instr.okok [1, 2, 3, 4, 5] []).wellFormed = true
    ∧ (Instr.okok [] [0x11, 0x22]).wellFormed = true := by decide

/-! ### Decoding (95 §2.4; the tag words of R98) -/

theorem test_decode_sync : decodeCmd [0x53, 0x59, 0x4E, 0x43] = .frame .sync [] := by decide
theorem test_decode_info : decodeCmd [0x49, 0x4E, 0x46, 0x4F, 0x00] = .frame .info [0x00] := by decide
theorem test_decode_read : decodeCmd [0x52, 0x45, 0x41, 0x44, 0x0E, 0x00, 0x00, 0x10, 0x08, 0x00, 0x00, 0x00]
    = .frame (.read 0x1000000E 8) [] := by decide
theorem test_decode_eras : decodeCmd [0x45, 0x52, 0x41, 0x53, 0x00, 0x00, 0x00, 0x10, 0x00, 0x10, 0x00, 0x00]
    = .frame (.eras 0x10000000 4096) [] := by decide
theorem test_decode_writ :
    decodeCmd [0x57, 0x52, 0x49, 0x54, 0x10, 0x00, 0x00, 0x10, 0x04, 0x00, 0x00, 0x00, 0xDE, 0xAD, 0xBE, 0xEF]
      = .frame (.writ 0x10000010 4 [0xDE, 0xAD, 0xBE, 0xEF]) [] := by decide
theorem test_decode_seal :
    decodeCmd [0x53, 0x45, 0x41, 0x4C, 0x00, 0x00, 0x00, 0x10, 0x00, 0x02, 0x00, 0x00, 0xEC, 0xBA, 0xCF, 0xCF]
      = .frame (.sealImage 0x10000000 512 0xCFCFBAEC) [] := by decide
theorem test_decode_gogo : decodeCmd [0x47, 0x4F, 0x47, 0x4F, 0x00, 0x00, 0x00, 0x10] = .frame (.gogo 0x10000000) [] := by decide
theorem test_decode_statuses : decodeFrame [0x4F, 0x4B, 0x4F, 0x4B] = .frame (.okok [] []) []
    ∧ decodeFrame [0x45, 0x52, 0x52, 0x21] = .frame .err [] ∧ decodeFrame [0x50, 0x49, 0x43, 0x4F] = .frame .pico [] := by decide
theorem test_decode_unknown : decodeCmd [0x4F, 0x4B, 0x4F, 0x4B, 0x01] = .unknownOpcode [0x01]
    ∧ decodeFrame [0x73, 0x79, 0x6E, 0x63] = .unknownOpcode [] ∧ decodeFrame [0x43, 0x4E, 0x59, 0x53] = .unknownOpcode []
    ∧ decodeFrame [0x00, 0x00, 0x00, 0x00] = .unknownOpcode [] := by decide
theorem test_decode_waits :
    decodeCmd [0x57, 0x52, 0x49, 0x54, 0x00, 0x00, 0x00, 0x10, 0x04, 0x00, 0x00, 0x00, 0x01, 0x02] = .incomplete := by decide
theorem test_decode_resp_info : decodeResp .info
    [0x4F, 0x4B, 0x4F, 0x4B, 0x00, 0x00, 0x00, 0x10, 0x00, 0x00, 0x00, 0x01, 0x00, 0x10, 0x00, 0x00, 0x00, 0x01, 0x00, 0x00,
      0x00, 0x01, 0x00, 0x00] = .response ⟨.okok, [0x10000000, 0x01000000, 4096, 256, 256], []⟩ := by decide
theorem test_decode_resp_corners : decodeResp .info [0x45, 0x52, 0x52, 0x21] = .response ⟨.err, [], []⟩
    ∧ decodeResp (.eras 0 0) [0x50, 0x49, 0x43, 0x4F] = .response ⟨.pico, [], []⟩
    ∧ decodeResp .sync [0x6F, 0x6B, 0x6F, 0x6B] = .protocolViolation := by decide

/-- The ten words of spec/opcode_table.json, with every operand bit that the table leaves out zero. -/
theorem test_table_words :
    decodeTableWord 32 0x53594E43 = some .sync ∧ decodeTableWord 32 0x494E464F = some .info
    ∧ decodeTableWord 32 0x52454144 = some (.read 0 0) ∧ decodeTableWord 32 0x45524153 = some (.eras 0 0)
    ∧ decodeTableWord 32 0x57524954 = some (.writ 0 0 []) ∧ decodeTableWord 32 0x5345414C = some (.sealImage 0 0 0)
    ∧ decodeTableWord 32 0x474F474F = some (.gogo 0) ∧ decodeTableWord 32 0x4F4B4F4B = some (.okok [] [])
    ∧ decodeTableWord 32 0x45525221 = some .err ∧ decodeTableWord 32 0x5049434F = some .pico := by decide

/-- Operand bits above the tag: `READ 0x1000000E, 8`, its arguments least significant byte first. -/
theorem test_table_word_with_operands : decodeTableWord 96 0x000000081000000E52454144 = some (.read 0x1000000E 8) := by decide

/-! ### Placed in the machine, each of the ten words runs as the first instruction after reset -/

theorem test_fetch_word_commands : ∀ w ∈ [0x53594E43, 0x494E464F, 0x52454144, 0x45524153, 0x57524954, 0x5345414C],
    nextHas (step (State.reset.withFetchWord 32 w)) (fun t => decide (t.st = .readOpcode)) = true := by decide +kernel
theorem test_fetch_word_go :
    nextHas (step (State.reset.withFetchWord 32 0x474F474F)) (fun t => decide (t.st = .ended .byGo)) = true := by decide +kernel
theorem test_fetch_word_statuses : ∀ w ∈ [0x4F4B4F4B, 0x45525221, 0x5049434F],
    nextHas (step (State.reset.withFetchWord 32 w)) (fun t => decide (t.st = .error) && decide (t.rxPos = 4)) = true := by
  decide +kernel

/-! ### Checksums (95 §2.2) and ALIGN -/

theorem test_crc_check_value : crc32 [0x31, 0x32, 0x33, 0x34, 0x35, 0x36, 0x37, 0x38, 0x39] = 0xCBF43926 := by decide +kernel
theorem test_crc_of_payloads : crc32 [0x01, 0x02, 0x03, 0x04] = 0xB63CFBCD ∧ crc32 [0xAA] = 0xE401A57B := by decide +kernel
theorem test_align : align 300 256 = 512 ∧ align 0 256 = 0 ∧ align 256 256 = 256 ∧ align 5000 256 = 5120 := by decide

/-! ### The sequencer (95 §2.5, §2.6), one step each -/

theorem test_sync_completes : nextHas (step (hunting 3 [0x43]))
    (fun t => decide (t.tx = [0x50, 0x49, 0x43, 0x4F]) && decide (t.st = .readOpcode) && t.hasSynced
      && decide (t.syncIdx = 0)) = true := by decide
theorem test_sync_restarts : nextHas (step (hunting 3 [0x53])) (fun t => decide (t.syncIdx = 1) && decide (t.tx = [])) = true := by
  decide
theorem test_sync_mismatch : nextHas (step (hunting 3 [0x00])) (fun t => decide (t.syncIdx = 0) && decide (t.rxPos = 1)) = true := by
  decide
theorem test_unknown_opcode : nextHas (step (synced .readOpcode [0x58, 0x58, 0x58, 0x58]))
    (fun t => decide (t.st = .error) && decide (t.rxPos = 4) && decide (t.tx = [])) = true := by decide
theorem test_error_resets :
    nextHas (step { synced .error [] with errQueued := some .err })
      (fun t => decide (t.tx = [0x45, 0x52, 0x52, 0x21]) && decide (t.st = .waitSync) && !t.hasSynced
        && decide (t.errQueued = none)) = true := by decide
/-- R22: after a command with three arguments, `GOGO` leaves `arg[1]` and `arg[2]` holding no value. -/
theorem test_args_left_without_value :
    nextHas (step { synced .readArgs [0x00, 0x00, 0x00, 0x10] with
        opcode := some Opcode.gogo.tag, arg := { a0 := some 7, a1 := some 8, a2 := some 9 } })
      (fun t => decide (t.arg = { a0 := some 0x10000000, a1 := none, a2 := none })) = true := by decide
theorem test_opcode_holds : nextHas (step (synced .readOpcode [0x52, 0x45, 0x41]))
    (fun t => decide (t = synced .readOpcode [0x52, 0x45, 0x41])) = true := by decide
theorem test_transport_failure :
    nextHas (step { synced .readArgs [0x00, 0x00, 0x00, 0x10] with opcode := some Opcode.eras.tag, agenda := [.failDevice] })
      (fun t => decide (t.st = .ended .byTransport) && decide (t.tx = []) && decide (t.rxPos = 0)
        && t.hasSynced) = true := by decide

/-! ### The commands (95 §2.7), under G8 -/

theorem test_exec_sync : nextHas (exec .sync (synced .handle [])) (fun t => decide (t.tx = [0x50, 0x49, 0x43, 0x4F])) = true := by
  decide
theorem test_exec_info : nextHas (exec .info (synced .handle []))
    (fun t => decide (t.tx = [0x4F, 0x4B, 0x4F, 0x4B, 0x00, 0x00, 0x00, 0x10, 0x00, 0x00, 0x00, 0x01, 0x00, 0x10, 0x00, 0x00,
      0x00, 0x01, 0x00, 0x00, 0x00, 0x01, 0x00, 0x00])) = true := by decide
theorem test_exec_read_past_end :
    nextHas (exec (.read 0x10FFFFFE 4) (flashWith 0x10FFFFFE [0x11, 0x22] (synced .handle [])))
      (fun t => decide (t.tx = [0x4F, 0x4B, 0x4F, 0x4B, 0x11, 0x22])) = true := by decide +kernel
theorem test_exec_read_below_and_no_wrap :
    nextHas (exec (.read 0x0FFFFFFF 3) (flashWith 0x10000000 [0x33, 0x44] (synced .handle [])))
      (fun t => decide (t.tx = [0x4F, 0x4B, 0x4F, 0x4B, 0x33, 0x44])) = true
    ∧ nextHas (exec (.read 0xFFFFFFF0 0x20) (synced .handle [])) (fun t => decide (t.tx = [0x4F, 0x4B, 0x4F, 0x4B])) = true := by
  decide +kernel
theorem test_exec_eras_unaligned :
    nextHas (exec (.eras 0x10000003 2) (synced .handle []))
      (fun t => decide (t.flash.cells = [(0x10000003, 0xFF), (0x10000004, 0xFF)]) && decide (t.tx = [0x4F, 0x4B, 0x4F, 0x4B])) = true := by
  decide +kernel
theorem test_exec_eras_outside :
    nextHas (exec (.eras 0x20000000 4096) (synced .handle [])) (fun t => decide (t.flash.cells = [])) = true := by decide +kernel
theorem test_exec_writ_overwrites :
    nextHas (exec (.writ 0x10000010 4 [0x00, 0x00, 0x00, 0x00])
        (flashWith 0x10000010 [0xDE, 0xAD, 0xBE, 0xEF] (synced .handle [])))
      (fun t => decide (t.byteAt 0x10000012 = some 0x00)
        && decide (t.tx = [0x4F, 0x4B, 0x4F, 0x4B, 0x1C, 0xDF, 0x44, 0x21])) = true := by decide +kernel
theorem test_exec_writ_past_end :
    nextHas (exec (.writ 0x10FFFFFE 4 [0x01, 0x02, 0x03, 0x04]) (synced .handle []))
      (fun t => decide (t.flash.cells = [(0x10FFFFFE, 0x01), (0x10FFFFFF, 0x02)])
        && decide (t.tx = [0x4F, 0x4B, 0x4F, 0x4B, 0xCD, 0xFB, 0x3C, 0xB6])) = true := by decide +kernel
theorem test_exec_writ_ill_formed :
    (match exec (.writ 0x10000000 4 [0x01]) (synced .handle []) with
      | .refused r => decide (r = .illFormedCommand)
      | .next _ => false
      | .fault _ => false) = true := by decide
theorem test_exec_seal_wrong_checksum : nextHas (exec (.sealImage 0x10000000 512 0) (synced .handle []))
    (fun t => decide (t.tx = [0x4F, 0x4B, 0x4F, 0x4B]) && decide (t.st = .readOpcode)) = true := by decide
theorem test_exec_gogo : nextHas (exec (.gogo 0) (synced .handle []))
    (fun t => decide (t.tx = [0x4F, 0x4B, 0x4F, 0x4B]) && decide (t.st = .ended .byGo)) = true := by decide

/-! ### The host (95 §2.8), one step each -/

theorem test_host_sync_times_out : nextHas (exec .err (hostAt .sync .response (some .sync)))
    (fun t => decide (t.host.progress = .failed (.syncTimeout 1))) = true := by decide
theorem test_host_pico_after_eras : nextHas (exec .pico (hostAt .erase .response (some (.eras 0x10000000 4096))))
    (fun t => decide (t.host.progress
      = .failed (.protocolError .erase (some (.eras 0x10000000 4096)) ⟨0x50, 0x49, 0x43, 0x4F⟩))) = true := by decide
theorem test_host_integrity_error :
    nextHas (exec (.okok [0x0EEE91CB] []) (hostAt .write .response (some (.writ 0x10000000 1 [0xAA]))))
      (fun t => decide (t.host.progress = .failed (.integrityError 0x10000000 1 0xE401A57B 0x0EEE91CB))) = true := by
  decide +kernel
theorem test_host_erases_one_chunk : nextHas (step (hostAt .erase .send none))
    (fun t => decide (t.host.sent = some (.eras 0x10000000 4096)) && decide (t.host.phase = .response)) = true := by decide +kernel
/-- 95 §2.8: 300 bytes under G8 pad to 512 and the one Erase is `(0x10000000, 4096)`; Pad and Bounds are no steps of their own. -/
theorem test_host_goes_on_from_pad_to_erase :
    let s := hostAt .pad .send none
    nextHas (step { s with host := { s.host with image := { addr := 0x10000000, data := List.replicate 300 0x07 } } })
      (fun t => decide (t.host.progress = .running .erase) && decide (t.host.sent = some (.eras 0x10000000 4096))
        && decide (t.host.padded = some (List.replicate 300 0x07 ++ List.replicate 212 0x00))) = true := by decide +kernel
/-- R182: the host reads four bytes and no more; R190: the rest after `OKOK` in the same step. -/
theorem test_host_reads_whole_response :
    let s := hostAt .write .response (some (.writ 0x10000000 1 [0xAA]))
    nextHas (step { s with host := { s.host with rx := [0x4F, 0x4B, 0x4F, 0x4B, 0x7B, 0xA5, 0x01, 0xE4, 0x99] } })
      (fun t => decide (t.host.rxPos = 8) && decide (t.host.cursor = 1) && decide (t.host.phase = .send)) = true := by decide +kernel
/-- R244: the `OKOK` of `GOGO`, never read, is what a second flashing session on the same Transport reads first. -/
theorem test_host_second_session_reads_stale_response :
    let s := hostAt .go .send none
    nextHas (step { s with
        agenda := [.newFlashing s.host.image 1]
        host := { s.host with progress := .done, rx := [0x4F, 0x4B, 0x4F, 0x4B] } })
      (fun t => decide (t.host.progress = .running .sync) && decide (t.host.unread = [0x4F, 0x4B, 0x4F, 0x4B])
        && decide (t.host.attempts = 0)) = true := by decide +kernel
theorem test_host_address_not_u32_is_refused :
    let s := hostAt .sync .send none
    (match step { s with host := { s.host with image := { addr := 2 ^ 32, data := [] }, maxAttempts := 0 } } with
      | .refused r => decide (r = .hostValueNotU32)
      | .next _ => false
      | .fault _ => false) = true := by decide +kernel
theorem test_host_go_write_fails :
    nextHas (step { hostAt .go .send none with agenda := [.failHost 0] }) (fun t => decide (t.host.progress = .done)) = true := by
  decide +kernel

/-! ### Witnesses: every hypothesis of every statement is met by something -/

theorem witness_Dec32IsLittleEndianSumAndInvertsEnc32 : dec32 0x04 0x03 0x02 0x01 = dec32 0x04 0x03 0x02 0x01 := rfl

theorem witness_CrcDetectsOneChangedByte : (0x07 : Byte) ≠ 0x06 := by decide

theorem witness_AlignRoundsUpToMultiple : 0 < 1 ∧ 0 < 256 ∧ 256 ∣ align 300 256 := by decide

theorem witness_CommandDecodeInvertsEncode : ∀ i ∈ [Instr.sync, .writ 0 0 [], .writ 0xFFFFFFFF 1 [0xAA],
    .sealImage 0xFFFFFFFF 0xFFFFFFFF 0xFFFFFFFF], i.isCommand = true ∧ i.wellFormed = true := by decide

theorem witness_DecodedFrameReencodesToItsBytes :
    decodeCmd [0x47, 0x4F, 0x47, 0x4F, 0xFF, 0xFF, 0xFF, 0xFF, 0x53] = .frame (.gogo 0xFFFFFFFF) [0x53] := by decide

theorem witness_ResponseDecodeInvertsEncode :
    [1, 2, 3, 4, 5].length = respArgCount .info ∧ ([] : List Byte).length = respPayloadLen .info
    ∧ ([] : List Word).length = respArgCount (.read 0 2) ∧ [(0x11 : Byte), 0x22].length = respPayloadLen (.read 0 2)
    ∧ Status.err ≠ .okok ∧ Status.pico ≠ .okok ∧ (Instr.read 0 2).isCommand = true := by decide

theorem witness_EncodedCommandsArePrefixFree :
    encode .sync = some [0x53, 0x59, 0x4E, 0x43] ∧ [(0x53 : Byte), 0x59, 0x4E, 0x43] <+: [0x53, 0x59, 0x4E, 0x43]
    ∧ Instr.sync.isCommand = true := by decide

theorem witness_CommandFormatsAndLengths :
    ([] : List Byte).length = (0 : Word).toNat ∧ [(0x01 : Byte)].length ≠ (0 : Word).toNat := by decide

theorem witness_UnknownTagConsumesFourBytes : ∀ op : Opcode, op.tag ≠ ⟨0x73, 0x79, 0x6E, 0x63⟩ := by
  intro op; cases op <;> decide

theorem witness_WaitSyncMatchesByteByByte :
    (hunting 0 [0x53]).mover = .device ∧ (hunting 0 [0x53]).st = .waitSync ∧ (hunting 0 [0x53]).unread = [0x53]
    ∧ (hunting 2 [0x4E]).syncIdx = 2 ∧ (hunting 2 [0x4E]).unread = [0x4E]
    ∧ (hunting 3 [0x43]).syncIdx = 3 ∧ (hunting 3 [0x43]).unread = [0x43]
    ∧ (hunting 3 [0x53]).unread = [0x53] ∧ (hunting 3 [0x00]).unread = [0x00] := by decide

/-- Both branches: nothing received, and the tag with its first byte doubled. -/
theorem witness_SyncAcknowledgedAtFirstFullTag :
    (∀ p : List Byte, p <+: [] → p ≠ [] → ¬ [0x53, 0x59, 0x4E, 0x43] <:+ p)
    ∧ (∀ p : List Byte, p <+: [0x53, 0x53, 0x59, 0x4E, 0x43] → p ≠ [0x53, 0x53, 0x59, 0x4E, 0x43] →
        ¬ [0x53, 0x59, 0x4E, 0x43] <:+ p)
    ∧ [(0x53 : Byte), 0x59, 0x4E, 0x43] <:+ [0x53, 0x53, 0x59, 0x4E, 0x43]
    ∧ (hunting 0 [0x53, 0x53, 0x59, 0x4E, 0x43]).agenda = [] ∧ (hunting 0 []).unread = [] := by
  refine ⟨fun p hp hne => absurd (List.prefix_nil.mp hp) hne, fun p hp hne => ?_, by decide, by decide, by decide⟩
  have key : ∀ k < 5, ¬ [(0x53 : Byte), 0x59, 0x4E, 0x43] <:+ [0x53, 0x53, 0x59, 0x4E, 0x43].take k := by decide
  rw [List.prefix_iff_eq_take] at hp
  rw [hp] at hne ⊢
  refine key p.length ?_
  by_contra hk
  exact hne (List.take_of_length_le (by simpa using hk))

theorem witness_ReadOpcodeLooksUpTag :
    (synced .readOpcode (Opcode.info.tag.bytes ++ [])).mover = .device
    ∧ (synced .readOpcode (Opcode.info.tag.bytes ++ [])).unread = Opcode.info.tag.bytes ++ []
    ∧ (synced .readOpcode [0x73, 0x79, 0x6E, 0x63]).unread = Tag.bytes ⟨0x73, 0x79, 0x6E, 0x63⟩ ++ [] := by decide

theorem witness_ReadArgsTakesLittleEndianArguments :
    let s : State := { synced .readArgs ([1, 2, 3].flatMap enc32 ++ [0xAA]) with opcode := some Opcode.sealImage.tag }
    let z : State := { synced .readArgs [] with opcode := some Opcode.sync.tag }
    s.mover = .device ∧ s.st = .readArgs ∧ s.opcode = some Opcode.sealImage.tag ∧ [1, 2, 3].length = Opcode.sealImage.nargs
    ∧ s.unread = [1, 2, 3].flatMap enc32 ++ [0xAA] ∧ z.unread = [].flatMap enc32 ++ [] := by decide

/-- Clause 1 at lengths 0 and 2; clause 2. -/
theorem witness_ReadDataTakesExactlyArg1Bytes :
    let s (n : Word) : State :=
      { synced .readData [0x01, 0x02] with opcode := some Opcode.writ.tag, arg := { a0 := some 0, a1 := some n, a2 := none } }
    let z : State := { synced .readData [] with opcode := some Opcode.sync.tag }
    (s 0).mover = .device ∧ (s 0).arg.a1 = some 0 ∧ (0 : Word).toNat ≤ (s 0).unread.length
    ∧ (s 2).arg.a1 = some 2 ∧ (2 : Word).toNat ≤ (s 2).unread.length
    ∧ z.mover = .device ∧ z.st = .readData ∧ z.opcode = some Opcode.sync.tag ∧ Opcode.sync ≠ .writ := by decide

/-- One state for each of the four reads, one byte short where the read is longer than one. -/
theorem witness_ReadHoldsUntilItsBytesArrive :
    let a : State := { synced .readArgs [0x00, 0x00, 0x00] with opcode := some Opcode.gogo.tag }
    let d : State :=
      { synced .readData [0x01] with opcode := some Opcode.writ.tag, arg := { a0 := some 0, a1 := some 2, a2 := none } }
    (hunting 0 []).mover = .device ∧ (hunting 0 []).unread.length < 1
    ∧ (synced .readOpcode [0x52, 0x45, 0x41]).unread.length < 4
    ∧ a.opcode = some Opcode.gogo.tag ∧ a.unread.length < 4 * Opcode.gogo.nargs
    ∧ d.arg.a1 = some 2 ∧ d.unread.length < (2 : Word).toNat := by decide

theorem witness_HandleStepRunsHeldInstruction :
    ((synced .handle []).load (.writ 0 1 [0xAA])).mover = .device ∧ ((synced .handle []).load (.writ 0 1 [0xAA])).st = .handle
    ∧ (match ((synced .handle []).load (.writ 0 1 [0xAA])).heldInstr with
        | .ok i => decide (i = .writ 0 1 [0xAA])
        | .error _ => false) = true := by decide

theorem witness_FetchedFrameRunsItsCommand :
    let bs : List Byte := [0x57, 0x52, 0x49, 0x54, 0x00, 0x00, 0x00, 0x10, 0x01, 0x00, 0x00, 0x00, 0xAA]
    let s := synced .readOpcode (bs ++ [0x53])
    s.agenda = [] ∧ s.st = .readOpcode ∧ (Instr.writ 0x10000000 1 [0xAA]).isCommand = true
    ∧ encode (.writ 0x10000000 1 [0xAA]) = some bs ∧ s.unread = bs ++ [0x53] := by decide

theorem witness_StatusTagStepTakesUnknownOpcodeError :
    ∀ st ∈ allStatuses, (synced .readOpcode (st.tag.bytes ++ [])).mover = .device
      ∧ (synced .readOpcode (st.tag.bytes ++ [])).unread = st.tag.bytes ++ [] := by decide

theorem witness_ErrorStateReportsAndResets :
    let s : State := { synced .error [] with errQueued := some .err }
    s.mover = .device ∧ s.st = .error ∧ s.errQueued = some .err := by decide

theorem witness_EndedSessionStays :
    (synced (.ended .byGo) [0x49]).mover = .device ∧ (synced (.ended .byGo) [0x49]).st = .ended .byGo
    ∧ (synced (.ended .byTransport) []).st = .ended .byTransport := by decide

/-- The invariant is met in READ_OPCODE and in ERROR, and by whatever moves there. -/
theorem synced_inv (ms : List Move) (rx : List Byte) : ({ synced .readOpcode rx with agenda := ms } : State).SessionInv :=
  ⟨rfl, rfl, .inr (.inr rfl), rfl, Nat.zero_le _, Nat.le_refl _, rfl, fun _ hc => nomatch hc⟩

/-- A device step, a Transport failure, a delivery: each answers a next state from a state with the invariant. -/
theorem witness_OnlyListedTransitionsAreTaken :
    (synced .readOpcode [0x49, 0x4E, 0x46, 0x4F]).SessionInv
    ∧ nextHas (step (synced .readOpcode [0x49, 0x4E, 0x46, 0x4F])) (fun t => decide (t.st = .readArgs)) = true
    ∧ ({ synced .readOpcode [] with agenda := [.failDevice] } : State).SessionInv
    ∧ nextHas (step { synced .readOpcode [] with agenda := [.failDevice] }) (fun t => decide (t.st = .ended .byTransport)) = true
    ∧ nextHas (step { synced .readOpcode [] with agenda := [.deliver 1] }) (fun t => decide (t.st = .readOpcode)) = true :=
  ⟨synced_inv [] _, by decide, synced_inv _ _, by decide, by decide⟩

/-- The device: clause 1 in a waiting read and in ERROR; clause 2 at the last byte of the tag; clause 3 where the read finds its
bytes. The host: a read that waits with 3 bytes there in Sync and in Info, and with the status there in Info; a write in each of
Pad (which goes on to Erase) and Go; a run that is over. -/
theorem witness_TransportFailureEndsSession :
    let w : State := { synced .readOpcode [0x49] with agenda := [.failDevice] }
    let e : State := { synced .error [] with errQueued := some .err, agenda := [.failDevice] }
    let c : State := { hunting 3 [0x43] with agenda := [.failDevice] }
    let n : State := { synced .readOpcode [0x49, 0x4E, 0x46, 0x4F] with agenda := [.failDevice] }
    let y := hostAt .sync .response (some .sync)
    let i := hostAt .info .response (some .info)
    let i3 : HostSide := { i.host with rx := [0x4F, 0x4B, 0x4F] }
    let i5 : HostSide := { i.host with rx := [0x4F, 0x4B, 0x4F, 0x4B, 0x00] }
    let p := hostAt .pad .send none
    let g := hostAt .go .send none
    c.mover = .failDevice ∧ c.completesSync = true ∧ w.mover = .failDevice ∧ w.waiting = true ∧ e.mover = .failDevice ∧ e.st = .error
    ∧ n.waiting = false ∧ n.completesSync = false ∧ n.st ≠ .handle ∧ n.st ≠ .error
    ∧ ({ y with agenda := [.failHost 3] } : State).mover = .failHost 3 ∧ y.host.unread.length < 4
    ∧ i3.unread.length < i3.respLen .info ∧ i5.unread.length < i5.respLen .info
    ∧ (match p.host.next .pad with | .send _ st cmd => decide (st = .erase) && (encode cmd).isSome | _ => false) = true
    ∧ (match g.host.next .go with | .send _ st cmd => decide (st = .go) && (encode cmd).isSome | _ => false) = true
    ∧ ({ g.host with progress := .done } : HostSide).over = true := by decide +kernel

theorem witness_WriteStoresPayloadAndReportsChecksum :
    (Instr.writ 0x10FFFFFF 2 [0x01, 0x02]).wellFormed = true ∧ (Instr.writ 0 0 []).wellFormed = true
    ∧ (Instr.writ 0 1 []).wellFormed = false
    ∧ (synced .handle []).populated 0x10FFFFFF = true ∧ (synced .handle []).populated 0x11000000 = false := by decide

theorem witness_EraseFillsPopulatedRange :
    (synced .handle []).populated 0x10000000 = true ∧ (synced .handle []).populated 0x0FFFFFFF = false := by decide

theorem witness_WriteIsIdempotentOnFlash :
    ∃ t u, exec (.writ 0x10000000 1 [0xAA]) (synced .handle []) = .next t
      ∧ exec (.writ 0x10000000 1 [0xAA]) t = .next u := ⟨_, _, rfl, rfl⟩

/-- The whole range at the low end and at the high end of the flash. -/
theorem witness_ReadAfterWriteReturnsPayload :
    (Instr.writ 0x10000000 1 [0xAA]).wellFormed = true ∧ (synced .handle []).memLo ≤ (0x10000000 : Word).toNat
    ∧ (0x10FFFFFF : Word).toNat + (1 : Word).toNat ≤ (synced .handle []).memHi := by decide

theorem witness_ResponseFramesRaiseAtDevice : (synced .readOpcode []).mover ≠ .host := by decide

/-- The cases of the Sync step: a response awaited, the budget not used up, the budget used up, four bytes that are no status. -/
theorem witness_HostSyncStepWantsPico :
    let h := hostAt .sync .response (some .sync)
    let more : State := { h with host := { h.host with maxAttempts := 2 } }
    let odd : State := { h with host := { h.host with rx := [0x6F, 0x6B, 0x6F, 0x6B] } }
    h.mover = .host ∧ h.host.progress = .running .sync ∧ h.host.maxAttempts ≤ h.host.attempts
    ∧ more.host.attempts < more.host.maxAttempts ∧ odd.host.phase = .response ∧ odd.host.sent = some .sync
    ∧ odd.host.unread = Tag.bytes ⟨0x6F, 0x6B, 0x6F, 0x6B⟩ ++ []
    ∧ ∀ st ∈ allStatuses, st.tag ≠ ⟨0x6F, 0x6B, 0x6F, 0x6B⟩ := by decide

theorem witness_HostInfoStoresGeometry :
    (hostAt .info .response (some .info)).mover = .host ∧ (hostAt .info .response (some .info)).host.progress = .running .info := by decide

theorem witness_HostWriteStepValidatesChecksum :
    let h := hostAt .write .response (some (.writ 0x10000000 1 [0xAA]))
    h.mover = .host ∧ h.host.progress = .running .write ∧ h.host.sent = some (.writ 0x10000000 1 [0xAA]) := by decide

theorem witness_HostEraseAndSealGoOnAfterOk :
    (hostAt .erase .response none).mover = .host ∧ (hostAt .erase .response none).host.progress = .running .erase
    ∧ (hostAt .sealImage .response none).host.progress = .running .sealImage := by decide

theorem witness_HostClassifiesUnwantedStatuses :
    ∀ st ∈ [HStep.info, .erase, .write, .sealImage],
      let s := hostAt st .response (some .info)
      let odd : State := { s with host := { s.host with rx := [0x00, 0x00, 0x00, 0x00] } }
      odd.mover = .host ∧ odd.host.progress = .running st ∧ odd.host.phase = .response ∧ odd.host.sent = some .info
        ∧ odd.host.unread = Tag.bytes ⟨0x00, 0x00, 0x00, 0x00⟩ ++ [] ∧ ∀ x ∈ allStatuses, x.tag ≠ ⟨0x00, 0x00, 0x00, 0x00⟩ := by
  decide

/-- A whole response, `OKOK` and `ERR!`; three bytes; `OKOK` with one byte of its rest missing. -/
theorem witness_HostStepRunsTheResponseItReads :
    let s := hostAt .write .response (some (.writ 0x10000000 1 [0xAA]))
    let cmd : Instr := .writ 0x10000000 1 [0xAA]
    let rx (bs : List Byte) : HostSide := { s.host with rx := bs }
    s.mover = .host ∧ s.host.progress = .running .write ∧ s.host.phase = .response ∧ s.host.sent = some cmd
    ∧ cmd.isCommand = true ∧ [(7 : Word)].length = respArgCount cmd ∧ ([] : List Byte).length = respPayloadLen cmd
    ∧ (rx [0x4F, 0x4B, 0x4F, 0x4B, 0x07, 0x00, 0x00, 0x00, 0x99]).unread = encodeResp ⟨.okok, [7], []⟩ ++ [0x99]
    ∧ (rx [0x45, 0x52, 0x52, 0x21]).unread = encodeResp ⟨.err, [], []⟩ ++ []
    ∧ (rx [0x4F, 0x4B, 0x4F]).unread.length < 4
    ∧ (rx [0x4F, 0x4B, 0x4F, 0x4B, 0x07, 0x00, 0x00]).unread = [0x4F, 0x4B, 0x4F, 0x4B] ++ [0x07, 0x00, 0x00]
    ∧ [(0x07 : Byte), 0x00, 0x00].length < 4 * respArgCount cmd + respPayloadLen cmd := by decide

/-- Clause 1 under G8; clause 2 with each granularity zero. -/
theorem witness_HostPadsToWriteGranularityOrRefuses :
    (hostAt .pad .send none).mover = .host ∧ (hostAt .pad .send none).host.progress = .running .pad
    ∧ (hostAt .pad .send none).host.dev = some g8 ∧ g8.writeSize ≠ 0 ∧ g8.eraseSize ≠ 0 ∧ g8.maxDataLen ≠ 0
    ∧ ({ g8 with writeSize := 0 } : Geometry).writeSize = 0 ∧ ({ g8 with eraseSize := 0 } : Geometry).eraseSize = 0
    ∧ ({ g8 with maxDataLen := 0 } : Geometry).maxDataLen = 0 := by decide

/-- An image that ends where the flash ends passes; one byte below the base and one above the end do not. -/
theorem witness_HostBoundsCheckRejectsImages :
    (hostAt .bounds .send none).mover = .host ∧ (hostAt .bounds .send none).host.progress = .running .bounds
    ∧ (hostAt .bounds .send none).host.dev = some g8
    ∧ ¬(0x10FFFF00 < g8.flashAddr.toNat ∨ 0x10FFFF00 + 256 > g8.flashAddr.toNat + g8.flashSize.toNat)
    ∧ 0x0FFFFFFF < g8.flashAddr.toNat ∧ 0x10FFFF01 + 256 > g8.flashAddr.toNat + g8.flashSize.toNat := by decide

/-- Clause 1: no chunk is refused under G8; clause 3: the second chunk of an image at 0xFFFFF000 is. -/
theorem witness_EraseChunksCoverRangeOnce :
    g8.eraseSize ≠ 0 ∧ (∀ k, eraseCmd 0x10000000 256 g8 k ≠ .refuse .hostValueNotU32)
    ∧ eraseCmd 0x10000000 256 g8 0 = .send (.eras 0x10000000 4096)
    ∧ eraseCmd 0xFFFFF000 8192 g8 0 = .send (.eras 0xFFFFF000 4096)
    ∧ eraseCmd 0xFFFFF000 8192 g8 1 = .refuse .hostValueNotU32 := by
  refine ⟨by decide, fun k => ?_, by decide +kernel, by decide +kernel, by decide +kernel⟩
  have h1 : align 256 g8.eraseSize.toNat / g8.eraseSize.toNat = 1 := by decide +kernel
  unfold eraseCmd
  rw [h1]
  split
  · rename_i hk
    have : k = 0 := by omega
    subst this
    decide +kernel
  · exact nofun

/-- The six clauses: the first chunk of each step, a chunk whose address does not fit, each step's cursor at its end. -/
theorem witness_HostSendsChunkAtItsCursor :
    let e := hostAt .erase .send none
    let w := hostAt .write .send none
    e.mover = .host ∧ e.host.phase = .send ∧ e.host.dev = some g8 ∧ e.host.padded = some (padTo 256 [0x01])
    ∧ e.host.cursor < align (padTo 256 [0x01]).length 4096 / 4096 ∧ align (padTo 256 [0x01]).length 4096 / 4096 ≤ 1
    ∧ e.host.image.addr + e.host.cursor * 4096 < 2 ^ 32
    ∧ 2 ^ 32 ≤ ({ addr := 2 ^ 32, data := [] } : Image).addr + e.host.cursor * 4096
    ∧ w.host.cursor < (padTo 256 [0x01]).length ∧ (padTo 256 [0x01]).length ≤ 256 := by decide +kernel

/-- Sync with an attempt left and with none, with an address that fits and one that does not; Info; Seal; Go. -/
theorem witness_HostSendsSyncInfoSealAndGo :
    let y := hostAt .sync .send none
    y.mover = .host ∧ y.host.phase = .send ∧ y.host.image.addr < 2 ^ 32 ∧ y.host.maxAttempts ≤ y.host.attempts
    ∧ ({ y.host with maxAttempts := 2 } : HostSide).attempts < 2 ∧ 2 ^ 32 ≤ ({ addr := 2 ^ 32, data := [] } : Image).addr
    ∧ (hostAt .info .send none).host.progress = .running .info ∧ (hostAt .info .send none).mover = .host
    ∧ (hostAt .sealImage .send none).mover = .host ∧ (hostAt .sealImage .send none).host.padded = some (padTo 256 [0x01])
    ∧ (padTo 256 [0x01]).length < 2 ^ 32 ∧ (hostAt .go .send none).host.progress = .running .go
    ∧ (hostAt .go .send none).host.image.addr < 2 ^ 32 := by decide +kernel

/-- A step of a host that is `DONE` and of one that has failed; a further flashing session after it and during a run. -/
theorem witness_HostStopsAfterFatalErrorAndDone :
    let h := hostAt .go .send none
    let d : State := { h with host := { h.host with progress := .done } }
    let f : State := { h with host := { h.host with progress := .failed (.syncTimeout 1) } }
    nextHas (step d) (fun t => decide (t = d.popAgenda)) = true ∧ nextHas (step f) (fun t => decide (t = f.popAgenda)) = true
    ∧ ({ d with agenda := [.newFlashing d.host.image 1] } : State).mover = .newFlashing d.host.image 1
    ∧ ({ h with agenda := [.newFlashing h.host.image 1] } : State).host.progress = .running .go := by
  decide +kernel

/-- The host's invariant in Bounds, where the step goes on to Erase. -/
theorem witness_HostStepsInOrder :
    (hostAt .bounds .send none).host.Inv ∧ (∀ p, (hostAt .bounds .send none).mover ≠ .newSession p)
    ∧ (∀ image k, (hostAt .bounds .send none).mover ≠ .newFlashing image k)
    ∧ nextHas (step (hostAt .bounds .send none))
      (fun t => decide ((hostAt .bounds .send none).host.progress.rank = some 3)
        && decide (t.host.progress.rank = some 4)) = true := by
  refine ⟨?_, nofun, nofun, by decide +kernel⟩
  constructor <;> simp [hostAt, State.create, HostSide.create, HProgress.rank, params]
  decide +kernel

theorem witness_TransportDeliversInOrder :
    let s := hostAt .sync .response none
    let t : State := { s with agenda := [.deliver 2], host := { s.host with tx := [0x53, 0x59, 0x4E] } }
    let b : State := { s with agenda := [.deliverBack 1], tx := [0x50] }
    t.mover = .deliver 2 ∧ t.host.txTaken + 2 ≤ t.host.tx.length ∧ b.mover = .deliverBack 1 ∧ b.txTaken + 1 ≤ b.tx.length := by
  decide

theorem witness_OneChangedByteIsAnIntegrityError :
    let h := hostAt .write .response (some (.writ 0x10000000 2 ([0x01] ++ 0x07 :: [])))
    (0x07 : Byte) ≠ 0x06 ∧ (Instr.writ 0x10000000 2 ([0x01] ++ 0x07 :: [])).wellFormed = true ∧ h.mover = .host
    ∧ h.host.progress = .running .write ∧ h.host.sent = some (.writ 0x10000000 2 ([0x01] ++ 0x07 :: [])) := by decide

theorem witness_EveryStepKeepsSessionInvariant : ∃ t, (synced .readOpcode []).SessionInv
    ∧ step (synced .readOpcode []) = .next t := ⟨_, synced_inv [] [], rfl⟩

theorem witness_EveryStepKeepsHostInvariant :
    ∃ t, ({ State.create params with agenda := [.host] } : State).host.Inv
      ∧ step { State.create params with agenda := [.host] } = .next t := by
  refine ⟨_, ?_, rfl⟩
  constructor <;> simp [State.create, HostSide.create, HProgress.rank]

theorem witness_SessionInvariantExcludesFaults : (synced .readOpcode []).SessionInv ∧ (synced .readOpcode []).mover ≠ .host :=
  ⟨synced_inv [] [], by decide⟩

theorem witness_OnlyEraseAndWriteChangeFlash :
    nextHas (step ((synced .handle []).load (.writ 0x10000000 1 [0xAA])))
      (fun t => decide (t.flash ≠ (synced .handle []).flash)) = true
    ∧ (∀ p, ((synced .handle []).load (.writ 0x10000000 1 [0xAA])).mover ≠ .newSession p) :=
  ⟨by decide +kernel, fun _ h => nomatch h⟩

theorem witness_GeometryIsReadOnlyAndStreamsOnlyGrow :
    (∀ p, (hunting 3 [0x43]).mover ≠ .newSession p) ∧ ∃ t, step (hunting 3 [0x43]) = .next t :=
  ⟨nofun, _, rfl⟩

end Sys2Proof.Tests
end

section
/-! SUPPORT, and O60. The streams only grow at their tails, and no count of what is taken or read moves back (R26, R30, R35,
R36): first on the host side, then on the device side, then for a step of any agent. -/

namespace Sys2Proof.Machine

/-! ### The host side -/

/-- R36: the host's ends of the Transport grow at their tails, and what has been taken or read of them stays so. -/
def HostSide.Grows (h k : HostSide) : Prop :=
  h.rx <+: k.rx ∧ h.tx <+: k.tx ∧ h.txTaken ≤ k.txTaken ∧ h.rxPos ≤ k.rxPos

/-- `Grows` reads the four stream fields only, so this also serves an update of any other field. -/
theorem HostSide.Grows.refl (h : HostSide) : h.Grows h := ⟨List.prefix_rfl, List.prefix_rfl, le_rfl, le_rfl⟩

theorem HostSide.Grows.trans {h j k : HostSide} : h.Grows j → j.Grows k → h.Grows k
  | ⟨rx, tx, taken, pos⟩, ⟨rx', tx', taken', pos'⟩ => ⟨rx.trans rx', tx.trans tx', taken.trans taken', pos.trans pos'⟩

theorem HostSide.grows_advance (h : HostSide) (n : Nat) : h.Grows (h.advance n) :=
  ⟨List.prefix_rfl, List.prefix_rfl, le_rfl, Nat.le_add_right _ _⟩

theorem HostSide.grows_attemptFailed (h : HostSide) : h.Grows h.attemptFailed := by
  unfold HostSide.attemptFailed
  split <;> exact .refl h

theorem HostSide.grows_sendIn (h : HostSide) (step : HStep) (cmd : Instr) (bs : List Byte) :
    h.Grows (h.sendIn step cmd bs) := by
  cases step <;> exact ⟨List.prefix_rfl, List.prefix_append _ _, le_rfl, le_rfl⟩

theorem HostSide.grows_failWrite (h : HostSide) (step : HStep) (bs : List Byte) (n : Nat) :
    h.Grows (h.failWrite step bs n) := by
  cases step <;> exact ⟨List.prefix_rfl, List.prefix_append _ _, le_rfl, le_rfl⟩

theorem HostSide.grows_failRead (h : HostSide) (step : HStep) (n : Nat) : h.Grows (h.failRead step n) := by
  have read := h.grows_advance (h.statusRead + min n (h.unread.length - h.statusRead))
  cases step with
  | sync => exact read.trans (HostSide.grows_attemptFailed _)
  | _ => exact read

/-- The silent steps between two commands touch no stream. -/
theorem HostSide.GoesOn.grows {h k : HostSide} (on : h.GoesOn k) : h.Grows k := by
  induction on with
  | here => exact .refl _
  | pad _ _ _ _ _ _ _ ih | bounds _ _ _ _ _ _ _ ih | erase _ _ _ _ _ _ _ ih | write _ _ _ _ _ _ _ ih => exact ih

/-- What the host makes of a response that it has read touches no stream. -/
theorem HostSide.Takes.grows {h k : HostSide} (takes : h.Takes k) : h.Grows k := by
  obtain rfl | ⟨-, rfl | rfl⟩ | ⟨-, _, rfl⟩ | ⟨_, _, -, -, rfl⟩ | ⟨-, rfl⟩ | ⟨_, _, -, rfl⟩ := takes
  · exact .refl _
  · exact h.grows_attemptFailed
  all_goals exact .refl h

theorem hostStep_grows {s t : State} (hm : s.mover = .host) (h : hostStep s = .next t) : s.host.Grows t.host := by
  obtain same | ⟨_, n, -, -, -, takes⟩ | ⟨_, k, st, cmd, -, -, on, -, -, -, -, -, sent⟩
    | ⟨_, j, -, -, on, ⟨stops, -⟩ | ⟨_, fails⟩⟩ := hostStep_cases hm h
  · rw [same]; exact .refl _
  · exact (s.host.grows_advance n).trans takes.grows
  · rw [sent]; exact on.grows.trans (k.grows_sendIn st cmd _)
  · rw [stops]; exact on.grows
  · rw [fails]; exact on.grows

theorem hostFail_grows (n : Nat) (s : State) : s.host.Grows (hostFail n s).host := by
  obtain same | ⟨step, -, ⟨j, st, cmd, -, on, -, -, failed⟩ | ⟨-, failed⟩⟩ := hostFail_cases n s
  · rw [same]; exact .refl _
  · rw [failed]; exact on.grows.trans (j.grows_failWrite st _ n)
  · rw [failed]; exact s.host.grows_failRead step n

/-! ### The device side -/

/-- R26, R30, R35, R36: the geometry is the same, the four streams grow at their tails, and no count moves back. -/
def State.Grows (s t : State) : Prop :=
  t.geom = s.geom ∧ s.rx <+: t.rx ∧ s.tx <+: t.tx ∧ s.rxPos ≤ t.rxPos ∧ s.txTaken ≤ t.txTaken ∧ s.host.Grows t.host

/-- `Grows` does not read the registers, the flash or the agenda, so this and the rules below also serve an update of those. -/
theorem State.Grows.refl (s : State) : s.Grows s :=
  ⟨rfl, List.prefix_rfl, List.prefix_rfl, le_rfl, le_rfl, .refl _⟩

theorem State.grows_consume (s : State) (n : Nat) : s.Grows { s with rxPos := s.rxPos + n } :=
  ⟨rfl, List.prefix_rfl, List.prefix_rfl, Nat.le_add_right _ _, le_rfl, .refl _⟩

theorem State.grows_txWrite (s : State) (bs : List Byte) : s.Grows (s.txWrite bs) :=
  ⟨rfl, List.prefix_rfl, List.prefix_append _ _, le_rfl, le_rfl, .refl _⟩

theorem State.grows_withHost {s : State} {h : HostSide} (hg : s.host.Grows h) : s.Grows (s.withHost h) :=
  ⟨rfl, List.prefix_rfl, List.prefix_rfl, le_rfl, le_rfl, hg⟩

/-- R141: the byte examined is consumed, and a full match writes `PICO`. -/
theorem State.grows_syncByte (s : State) (b : Byte) : s.Grows (State.syncByte b { s with rxPos := s.rxPos + 1 }) := by
  obtain ⟨k, he⟩ | ⟨-, -, he⟩ := State.syncByte_cases b { s with rxPos := s.rxPos + 1 }
  · rw [he]; exact s.grows_consume 1
  · rw [he]
    exact ⟨rfl, List.prefix_rfl, List.prefix_append _ _, Nat.le_add_right _ _, le_rfl, .refl _⟩

/-- A command that is run is a well-formed record: an ill-formed `WRIT` is refused (R121). -/
theorem wellFormed_of_exec {i : Instr} {s t : State} (hc : i.isCommand = true) (h : exec i s = .next t) :
    i.wellFormed = true := by
  cases i with
  | writ addr len data =>
    by_contra hw
    rw [exec_writ_illFormed (by simpa using hw)] at h
    cases h
  | okok | err | pico => cases hc
  | sync | info | read | eras | sealImage | gogo => rfl

/-- R160: a command that is run does what every command does. -/
theorem commandEffect_of_exec {i : Instr} {s t : State} (hc : i.isCommand = true) (h : exec i s = .next t) :
    CommandEffect i s t := by
  obtain ⟨u, hu, effect⟩ := exec_command hc (wellFormed_of_exec hc h) s
  cases hu.symm.trans h
  exact effect

theorem CommandEffect.grows {i : Instr} {s t : State} (effect : CommandEffect i s t) : s.Grows t := by
  obtain ⟨frame, -, ⟨r, -, htx, -⟩, -, -⟩ := effect
  refine ⟨frame.geom, ?_, ?_, frame.rxPos.ge, frame.txTaken.ge, ?_⟩
  · rw [frame.rx]
  · rw [htx]; exact List.prefix_append _ _
  · rw [frame.host]; exact .refl _

theorem deviceStep_grows {s t : State} (hm : s.mover ≠ .host) (h : deviceStep s = .next t) : s.Grows t := by
  obtain ⟨rfl, -⟩ | ⟨b, -, -, rfl⟩ | ⟨_, _, -, -, -, rfl⟩ | ⟨_, -, -, -, rfl⟩ | ⟨_, -, -, -, rfl⟩ | ⟨-, -, -, rfl⟩
    | ⟨_, -, -, -, rfl⟩ | ⟨i, -, held, run⟩ | ⟨-, rfl⟩ := deviceStep_cases hm h
  · exact .refl _
  · exact s.grows_syncByte b
  · exact s.grows_consume _
  · exact s.grows_consume _
  · exact s.grows_consume _
  · exact s.grows_consume _
  · exact .refl s
  · exact (commandEffect_of_exec (State.heldInstr_isCommand held).1 run).grows
  · exact s.grows_txWrite _

theorem deviceFail_grows (s : State) : s.Grows (deviceFail s) := by
  obtain same | ⟨-, ends | ⟨-, ends⟩⟩ := deviceFail_cases s
  · rw [same]; exact .refl s
  · rw [ends]; exact .refl s
  · rw [ends]; exact s.grows_consume 1

/-! ### The Transport -/

theorem State.grows_deliver (s : State) (n : Nat) : s.Grows (s.deliver n) :=
  ⟨rfl, List.prefix_append _ _, List.prefix_rfl, le_rfl, le_rfl, List.prefix_rfl, List.prefix_rfl, Nat.le_add_right _ _, le_rfl⟩

theorem State.grows_deliverBack (s : State) (n : Nat) : s.Grows (s.deliverBack n) :=
  ⟨rfl, List.prefix_rfl, List.prefix_rfl, le_rfl, Nat.le_add_right _ _, List.prefix_append _ _, List.prefix_rfl, le_rfl, le_rfl⟩

theorem State.grows_arrive (s : State) (bs : List Byte) : s.Grows (s.arrive bs) :=
  ⟨rfl, List.prefix_append _ _, List.prefix_rfl, le_rfl, le_rfl, .refl _⟩

theorem State.grows_corrupt (s : State) (n : Nat) (bs : List Byte) : s.Grows (s.corrupt n bs) :=
  ⟨rfl, List.prefix_append _ _, List.prefix_rfl, le_rfl, le_rfl, List.prefix_rfl, List.prefix_rfl, Nat.le_add_right _ _, le_rfl⟩

/-- R244: a further flashing session finds the streams as they are. -/
theorem State.grows_newFlashing (s : State) (image : Image) (n : Nat) : s.Grows (s.newFlashing image n) := by
  unfold State.newFlashing
  split <;> exact .refl s

/-! ### Any agent -/

/-- Every step but a session creation; taking the move off the agenda changes nothing that `Grows` reads. -/
theorem step_grows {s t : State} (hn : ∀ p, s.mover ≠ .newSession p) (h : step s = .next t) : s.Grows t := by
  obtain ⟨hm, u, hu, rfl⟩ | ⟨hm, u, hu, rfl⟩ | ⟨n, -, rfl⟩ | ⟨n, -, rfl⟩ | ⟨bs, -, rfl⟩ | ⟨n, bs, -, rfl⟩ | ⟨-, rfl⟩
    | ⟨n, -, rfl⟩ | ⟨p, hp, -⟩ | ⟨image, n, -, rfl⟩ := step_cases h
  · exact deviceStep_grows (t := u) (by simp [hm]) hu
  · exact State.grows_withHost (hostStep_grows hm hu)
  · exact s.grows_deliver n
  · exact s.grows_deliverBack n
  · exact s.grows_arrive bs
  · exact s.grows_corrupt n bs
  · exact deviceFail_grows s
  · exact State.grows_withHost (hostFail_grows n s)
  · exact absurd hp (hn p)
  · exact s.grows_newFlashing image n

/-- Settles O60, by the agent whose move the step is. -/
theorem geometryIsReadOnlyAndStreamsOnlyGrow : Obligations.GeometryIsReadOnlyAndStreamsOnlyGrow :=
  fun _ _ hn h => step_grows hn h

end Sys2Proof.Machine
end

section
/-! SUPPORT, O54, O56 and O58. The invariant of the device session (R25 to R28, R40, R51): session creation gives it, every
step keeps it, and it lets no step fault. First the rules on the registers that the next step reads, then one rule for each way in
which a step changes the session, then the agents. -/

namespace Sys2Proof.Machine

/-- Settles O54: each value is the one that `State.create` writes. -/
theorem creationLeavesInitialState : Obligations.CreationLeavesInitialState := fun _ =>
  ⟨rfl, rfl, rfl, rfl, rfl, rfl, rfl, rfl, rfl, rfl, rfl, rfl, rfl, fun _ => rfl, rfl, rfl, rfl, rfl, rfl, rfl⟩

/-- R230: a session creation as a move, whatever moves are still to come. -/
theorem State.sessionInv_renew (p : Params) (s : State) : (s.renew p).SessionInv :=
  ⟨rfl, rfl, .inl rfl, rfl, Nat.zero_le _, Nat.zero_le _, rfl, nofun⟩

theorem State.sessionInv_create (p : Params) : (State.create p).SessionInv :=
  State.sessionInv_renew p (State.create p)

/-! ### The registers that the next step reads (R40) -/

theorem State.registersOk_readArgs {s : State} (h : s.st = .readArgs) :
    s.registersOk = true ↔ ∃ op : Opcode, s.opcode = some op.tag := by
  simp only [← State.tableOpcode_eq_some]
  cases hop : s.tableOpcode <;> simp [State.registersOk, h, hop]

theorem State.registersOk_readData {s : State} (h : s.st = .readData) :
    s.registersOk = true ↔ ∃ op : Opcode, s.opcode = some op.tag ∧ s.arg.holds op.nargs = true := by
  simp only [← State.tableOpcode_eq_some]
  cases hop : s.tableOpcode <;> simp [State.registersOk, h, hop]

theorem State.registersOk_handle {s : State} (h : s.st = .handle) :
    s.registersOk = true ↔ ∃ op : Opcode, s.opcode = some op.tag ∧ s.arg.holds op.nargs = true
      ∧ ∃ i, s.heldInstr = .ok i ∧ i.isCommand = true ∧ i.wellFormed = true := by
  simp only [← State.tableOpcode_eq_some]
  cases hop : s.tableOpcode <;> cases hi : s.heldInstr <;> simp [State.registersOk, h, hop, hi]

/-- Where `opcode` holds a table tag, what a step reads there is its opcode, and no free value. -/
theorem State.opcode_of_heldOpcode {s : State} {op op' : Opcode} (h : s.opcode = some op'.tag)
    (hop : s.heldOpcode = .ok op) : s.opcode = some op.tag := by
  rw [State.heldOpcode_of_tag h] at hop
  cases hop
  exact h

/-- R143: `4 * n` bytes carry `n` arguments. -/
theorem argsOf_length {n : Nat} {bs : List Byte} (h : bs.length = 4 * n) : (argsOf bs).length = n := by
  induction n generalizing bs with
  | zero => rw [List.length_eq_zero_iff.mp h]; rfl
  | succ n ih =>
    match bs, h with
    | _ :: _ :: _ :: _ :: rest, h =>
      simp only [List.length_cons] at h
      simp only [argsOf, List.length_cons, ih (bs := rest) (by omega)]

/-- R145: with a table tag in `opcode`, and for `WRIT` the announced number of bytes in `data`, the registers hold a well-formed
command. -/
theorem State.heldInstr_wellFormed {s : State} {op : Opcode} (h : s.opcode = some op.tag)
    (hw : op = .writ → s.data.length = s.arg.read1.toNat) :
    ∃ i, s.heldInstr = .ok i ∧ i.isCommand = true ∧ i.wellFormed = true := by
  unfold State.heldInstr
  rw [State.heldOpcode_of_tag h]
  cases op with
  | writ => exact ⟨_, rfl, rfl, by simpa [Instr.wellFormed] using hw rfl⟩
  | sync | info | read | eras | sealImage | gogo => exact ⟨_, rfl, rfl, rfl⟩

/-! ### The streams -/

/-- R36: what is read of the unread bytes has arrived. -/
theorem State.consume_le {s : State} {n : Nat} (h : s.rxPos ≤ s.rx.length) (hn : n ≤ s.unread.length) :
    s.rxPos + n ≤ s.rx.length := by
  rw [State.unread_length] at hn
  omega

theorem State.four_le_of_tagAhead {s : State} {tag : Tag} (h : s.tagAhead = some tag) : 4 ≤ s.unread.length := by
  by_contra hl
  simp [State.tagAhead, takeTag_eq_none.mpr (Nat.not_le.mp hl)] at h

/-! ### The flags while a command is received and run -/

/-- The states from the accepted Sync to the response, in which the device receives or runs a command. -/
def SeqState.decoding : SeqState → Bool
  | .readOpcode | .readArgs | .readData | .handle => true
  | .waitSync | .error | .ended _ => false

theorem SeqState.ne_error_of_decoding {st : SeqState} (h : st.decoding = true) : st ≠ .error := by
  rintro rfl
  cases h

/-- R27. -/
theorem State.modeOk_of_decoding {s : State} (h : s.st.decoding = true) : s.modeOk = s.hasSynced := by
  unfold State.modeOk
  split
  · rename_i hst; rw [hst] at h; cases h
  all_goals rfl

namespace State.SessionInv

variable {s : State}

theorem flashOk (hs : s.SessionInv) : s.FlashOk := ⟨hs.flashWf, hs.flashPopulated⟩

/-- R28. -/
theorem nothing_queued (hs : s.SessionInv) (h : s.st ≠ .error) : s.errQueued = none := by
  rw [hs.queued, if_neg h]

/-- R25, R27: a device that receives or runs a command is synchronised and matches nothing. -/
theorem synced_of_decoding (hs : s.SessionInv) (hd : s.st.decoding = true) : s.hasSynced = true ∧ s.syncIdx = 0 := by
  refine ⟨(State.modeOk_of_decoding hd).symm.trans hs.mode, ?_⟩
  obtain hst | ⟨why, hst⟩ | idle := hs.matching
  · rw [hst] at hd; cases hd
  · rw [hst] at hd; cases hd
  · exact idle

/-- The step from one state of reading a command to the next (R142 to R144): bytes are consumed and registers written. What is left
to show is that the registers hold what the step after it reads. -/
theorem decodes (hs : s.SessionInv) (hd : s.st.decoding = true) {n : Nat} (hn : n ≤ s.unread.length) {op : Option Tag}
    {g : ArgRegs} {d : List Byte} {st : SeqState} (hd' : st.decoding = true)
    (registers : ({ s with rxPos := s.rxPos + n, opcode := op, arg := g, data := d, st := st } : State).registersOk = true) :
    ({ s with rxPos := s.rxPos + n, opcode := op, arg := g, data := d, st := st } : State).SessionInv := by
  obtain ⟨synced, idle⟩ := hs.synced_of_decoding hd
  have queued := hs.nothing_queued (SeqState.ne_error_of_decoding hd)
  refine ⟨(State.modeOk_of_decoding hd').trans synced, ?_, .inr (.inr idle), registers, State.consume_le hs.consumed hn, hs.taken,
    hs.flashWf, hs.flashPopulated⟩
  simp [queued, SeqState.ne_error_of_decoding hd']

/-- R141: the byte examined is consumed; a match goes on, starts anew, or is complete. -/
theorem syncByte (hs : s.SessionInv) (hst : s.st = .waitSync) {b : Byte} (hb : s.unread.head? = some b) :
    (State.syncByte b { s with rxPos := s.rxPos + 1 }).SessionInv := by
  have consumed : s.rxPos + 1 ≤ s.rx.length := State.consume_le hs.consumed (by
    cases hu : s.unread with
    | nil => simp [hu] at hb
    | cons _ _ => simp)
  obtain ⟨k, he⟩ | ⟨-, -, he⟩ := State.syncByte_cases b { s with rxPos := s.rxPos + 1 } <;> rw [he]
  · exact ⟨hs.mode, hs.queued, .inl hst, hs.registers, consumed, hs.taken, hs.flashWf, hs.flashPopulated⟩
  · exact ⟨rfl, hs.nothing_queued (by simp [hst]), .inr (.inr rfl), rfl, consumed, by simpa using Nat.le_add_right_of_le hs.taken,
      hs.flashWf, hs.flashPopulated⟩

/-- R142, R204: the tag of no opcode is consumed and the error is taken. -/
theorem unknownTag (hs : s.SessionInv) (hst : s.st = .readOpcode) {tag : Tag} (ht : s.tagAhead = some tag) :
    ({ s with rxPos := s.rxPos + 4, opcode := some tag, errQueued := some .err, st := .error } : State).SessionInv := by
  obtain ⟨synced, idle⟩ := hs.synced_of_decoding (by rw [hst]; rfl)
  exact ⟨synced, rfl, .inr (.inr idle), rfl, State.consume_le hs.consumed (State.four_le_of_tagAhead ht), hs.taken, hs.flashWf,
    hs.flashPopulated⟩

/-- R146. -/
theorem reportsAndResets (hs : s.SessionInv) (bs : List Byte) : (s.txWrite bs).sessionReset.SessionInv :=
  ⟨rfl, rfl, .inl rfl, rfl, hs.consumed, by simpa using Nat.le_add_right_of_le hs.taken, hs.flashWf, hs.flashPopulated⟩

/-- R145, R160: a command writes its response and goes on to READ_OPCODE or to END. -/
theorem of_commandEffect (hs : s.SessionInv) (hst : s.st = .handle) {i : Instr} {t : State} (effect : CommandEffect i s t) :
    t.SessionInv := by
  obtain ⟨synced, idle⟩ := hs.synced_of_decoding (by rw [hst]; rfl)
  obtain ⟨frame, st, ⟨r, -, tx, -⟩, flashOk, -⟩ := effect
  obtain ⟨flashWf, flashPopulated⟩ := flashOk hs.flashOk
  have st' : t.st = .ended .byGo ∨ t.st = .readOpcode := by rw [st]; split <;> simp
  refine ⟨?_, ?_, .inr (.inr (frame.syncIdx.trans idle)), ?_, ?_, ?_, flashWf, flashPopulated⟩
  · obtain h | h := st' <;> simp [State.modeOk, h, frame.hasSynced, synced]
  · rw [frame.errQueued, hs.nothing_queued (by simp [hst])]
    obtain h | h := st' <;> simp [h]
  · obtain h | h := st' <;> simp [State.registersOk, h]
  · rw [frame.rxPos, frame.rx]; exact hs.consumed
  · rw [frame.txTaken, tx, List.length_append]; exact Nat.le_add_right_of_le hs.taken

/-- R149. -/
theorem endByTransport (hs : s.SessionInv) {n : Nat} (hn : n ≤ s.unread.length) :
    ({ s.endByTransport with rxPos := s.rxPos + n } : State).SessionInv :=
  ⟨rfl, rfl, .inr (.inl ⟨_, rfl⟩), rfl, State.consume_le hs.consumed hn, hs.taken, hs.flashWf, hs.flashPopulated⟩

/-! ### What the session does not read -/

theorem popAgenda (hs : s.SessionInv) : s.popAgenda.SessionInv :=
  ⟨hs.mode, hs.queued, hs.matching, hs.registers, hs.consumed, hs.taken, hs.flashWf, hs.flashPopulated⟩

theorem withHost (hs : s.SessionInv) (h : HostSide) : (s.withHost h).SessionInv :=
  ⟨hs.mode, hs.queued, hs.matching, hs.registers, hs.consumed, hs.taken, hs.flashWf, hs.flashPopulated⟩

/-- R54: bytes arrive at the device, whatever becomes of the host's end. -/
theorem arrive (hs : s.SessionInv) (bs : List Byte) (h : HostSide) : ((s.arrive bs).withHost h).SessionInv :=
  ⟨hs.mode, hs.queued, hs.matching, hs.registers, by simpa using Nat.le_add_right_of_le hs.consumed, hs.taken, hs.flashWf,
    hs.flashPopulated⟩

/-- R54: no more bytes of `tx` are taken than are there. -/
theorem deliverBack (hs : s.SessionInv) (n : Nat) : (s.deliverBack n).SessionInv :=
  ⟨hs.mode, hs.queued, hs.matching, hs.registers, hs.consumed,
    by have := hs.taken; simp only [State.deliverBack_txTaken, State.deliverBack_tx, List.length_take, List.length_drop]; omega,
    hs.flashWf, hs.flashPopulated⟩

theorem newFlashing (hs : s.SessionInv) (image : Image) (n : Nat) : (s.newFlashing image n).SessionInv := by
  unfold State.newFlashing
  split
  · exact hs.withHost _
  · exact hs

/-! ### The agents -/

/-- R140 to R148. -/
theorem of_deviceStep {t : State} (hs : s.SessionInv) (hm : s.mover ≠ .host) (h : deviceStep s = .next t) : t.SessionInv := by
  obtain ⟨rfl, -⟩ | ⟨b, hst, hb, rfl⟩ | ⟨tag, op, hst, ht, hop, rfl⟩ | ⟨tag, hst, ht, -, rfl⟩ | ⟨op, hst, hop, hl, rfl⟩
    | ⟨hst, hop, hl, rfl⟩ | ⟨op, hst, hop, hne, rfl⟩ | ⟨i, hst, held, run⟩ | ⟨-, rfl⟩ := deviceStep_cases hm h
  · exact hs
  · exact hs.syncByte hst hb
  · exact hs.decodes (by rw [hst]; rfl) (State.four_le_of_tagAhead ht) rfl
      ((State.registersOk_readArgs rfl).mpr ⟨op, by rw [tag_of_opcodeOf hop]⟩)
  · exact hs.unknownTag hst ht
  · obtain ⟨_, tag⟩ := (State.registersOk_readArgs hst).mp hs.registers
    have count : (argsOf (s.unread.take (4 * op.nargs))).length = op.nargs := argsOf_length (List.length_take_of_le hl)
    have holds := ArgRegs.holds_write (argsOf (s.unread.take (4 * op.nargs)))
    rw [count] at holds
    exact hs.decodes (by rw [hst]; rfl) hl rfl
      ((State.registersOk_readData rfl).mpr ⟨op, State.opcode_of_heldOpcode tag hop, holds⟩)
  · obtain ⟨op, tag, holds⟩ := (State.registersOk_readData hst).mp hs.registers
    exact hs.decodes (by rw [hst]; rfl) hl rfl ((State.registersOk_handle rfl).mpr
      ⟨op, tag, holds, State.heldInstr_wellFormed tag fun _ => List.length_take_of_le hl⟩)
  · obtain ⟨op', tag, holds⟩ := (State.registersOk_readData hst).mp hs.registers
    cases (State.heldOpcode_of_tag tag).symm.trans hop
    exact hs.decodes (n := 0) (by rw [hst]; rfl) (Nat.zero_le _) rfl ((State.registersOk_handle rfl).mpr
      ⟨op, tag, holds, State.heldInstr_wellFormed tag fun hw => absurd hw hne⟩)
  · exact hs.of_commandEffect hst (commandEffect_of_exec (State.heldInstr_isCommand held).1 run)
  · exact hs.reportsAndResets _

/-- R149. -/
theorem of_deviceFail (hs : s.SessionInv) : (deviceFail s).SessionInv := by
  obtain same | ⟨-, ends | ⟨unread, ends⟩⟩ := deviceFail_cases s
  · rw [same]; exact hs
  · rw [ends]; exact hs.endByTransport (Nat.zero_le _)
  · rw [ends]; exact hs.endByTransport (List.length_pos_iff.mpr unread)

end State.SessionInv

/-- Settles O56, by the agent whose move the step is. -/
theorem everyStepKeepsSessionInvariant : Obligations.EveryStepKeepsSessionInvariant := by
  intro s t hs h
  obtain ⟨hm, u, hu, rfl⟩ | ⟨-, u, -, rfl⟩ | ⟨n, -, rfl⟩ | ⟨n, -, rfl⟩ | ⟨bs, -, rfl⟩ | ⟨n, bs, -, rfl⟩ | ⟨-, rfl⟩
    | ⟨n, -, rfl⟩ | ⟨p, -, rfl⟩ | ⟨image, n, -, rfl⟩ := step_cases h
  all_goals refine State.SessionInv.popAgenda ?_
  · exact hs.of_deviceStep (by simp [hm]) hu
  · exact hs.withHost _
  · exact hs.arrive _ _
  · exact hs.deliverBack n
  · exact hs.arrive bs s.host
  · exact hs.arrive bs _
  · exact hs.of_deviceFail
  · exact hs.withHost _
  · exact State.sessionInv_renew p s
  · exact hs.newFlashing image n

/-! ### No step faults -/

/-- R40: the device side finds in the registers what its step reads, so the step completes. -/
theorem State.SessionInv.deviceStep_completes {s : State} (hs : s.SessionInv) (hm : s.mover ≠ .host) :
    ∃ t, deviceStep s = .next t := by
  unfold deviceStep
  split
  case h_1 => unfold stepWaitSync; split <;> exact ⟨_, rfl⟩
  case h_2 =>
    cases ht : takeTag s.unread with
    | none =>
      unfold stepReadOpcode
      rw [State.rxRead_eq_none.mpr (takeTag_eq_none.mp ht)]
      exact ⟨_, rfl⟩
    | some p =>
      rw [stepReadOpcode_eq (takeTag_eq_some.mp ht)]
      split
      · exact ⟨_, rfl⟩
      · split
        · exact ⟨_, exec_status_at_device (s := { s with rxPos := s.rxPos + 4, opcode := some p.1 }) hm _⟩
        · exact ⟨_, rfl⟩
  case h_3 hst =>
    obtain ⟨op, tag⟩ := (State.registersOk_readArgs hst).mp hs.registers
    unfold stepReadArgs
    rw [State.heldOpcode_of_tag tag]
    dsimp only
    split <;> exact ⟨_, rfl⟩
  case h_4 hst =>
    obtain ⟨op, tag, -⟩ := (State.registersOk_readData hst).mp hs.registers
    unfold stepReadData
    rw [State.heldOpcode_of_tag tag]
    dsimp only
    split
    · split <;> exact ⟨_, rfl⟩
    · exact ⟨_, rfl⟩
  case h_5 hst =>
    obtain ⟨-, -, -, i, held, command, wellFormed⟩ := (State.registersOk_handle hst).mp hs.registers
    obtain ⟨t, run, -⟩ := exec_command command wellFormed s
    unfold stepHandle
    rw [held]
    exact ⟨t, run⟩
  case h_6 => exact ⟨_, rfl⟩
  case h_7 => exact ⟨_, rfl⟩

/-- A step of every agent but the host answers a next state. -/
theorem State.SessionInv.step_completes {s : State} (hs : s.SessionInv) (hm : s.mover ≠ .host) : ∃ t, step s = .next t := by
  have run : ∃ u, runMove s.mover s = .next u := by
    cases hv : s.mover
    case device => exact hs.deviceStep_completes hm
    case host => exact absurd hv hm
    all_goals exact ⟨_, rfl⟩
  obtain ⟨u, hu⟩ := run
  exact ⟨u.popAgenda, by rw [step_eq, hu]; rfl⟩

theorem hostTakeOk_ne_fault (rargs : List Word) (rdata : List Byte) (s : State) (f : Fault) : hostTakeOk rargs rdata s ≠ .fault f := by
  unfold hostTakeOk
  repeat' split
  all_goals exact nofun

theorem hostTakeErr_ne_fault (s : State) (f : Fault) : hostTakeErr s ≠ .fault f := by
  unfold hostTakeErr
  split <;> exact nofun

theorem hostProtocolError_ne_fault (tag : Tag) (s : State) (f : Fault) : hostProtocolError tag s ≠ .fault f := by
  unfold hostProtocolError
  split <;> exact nofun

theorem hostTakePico_ne_fault (s : State) (f : Fault) : hostTakePico s ≠ .fault f := by
  unfold hostTakePico
  split
  · exact nofun
  all_goals exact hostProtocolError_ne_fault _ _ _

theorem exec_response_ne_fault {s : State} (hm : s.mover = .host) (r : Response) (f : Fault) : exec r.toInstr s ≠ .fault f := by
  rw [exec_response_at_host hm]
  split
  · exact hostTakeOk_ne_fault _ _ _ _
  · exact hostTakeErr_ne_fault _ _
  · exact hostTakePico_ne_fault _ _

theorem hostRead_ne_fault {s : State} (hm : s.mover = .host) (f : Fault) : hostRead s ≠ .fault f := by
  unfold hostRead
  split
  · exact nofun
  · split
    · exact nofun
    · dsimp only
      split
      · exact exec_response_ne_fault (s := s.withHost (s.host.advance _)) hm _ _
      · split
        · exact hostProtocolError_ne_fault _ _ _
        · exact nofun
      · exact nofun

theorem hostSend_ne_fault (step : HStep) (s : State) (f : Fault) : hostSend step s ≠ .fault f := by
  unfold hostSend
  split
  · split <;> exact nofun
  · exact nofun
  · exact nofun

/-- The host's step waits, goes on or is refused: it reads no register of the device. -/
theorem hostStep_ne_fault {s : State} (hm : s.mover = .host) (f : Fault) : hostStep s ≠ .fault f := by
  unfold hostStep
  split
  · exact nofun
  · exact nofun
  · split
    · exact hostRead_ne_fault hm f
    · exact hostSend_ne_fault _ s f

/-- Settles O58: a step of the host never faults, and a step of any other agent completes. -/
theorem sessionInvariantExcludesFaults : Obligations.SessionInvariantExcludesFaults := by
  intro s hs
  refine ⟨fun f hf => ?_, hs.step_completes⟩
  by_cases hm : s.mover = .host
  · rw [step_host hm] at hf
    cases hr : hostStep s with
    | next t => rw [hr] at hf; cases hf
    | fault g => exact hostStep_ne_fault hm g hr
    | refused r => rw [hr] at hf; cases hf
  · obtain ⟨t, ht⟩ := hs.step_completes hm
    rw [ht] at hf
    cases hf

end Sys2Proof.Machine
end

section
/-! SUPPORT, O55 and O57. The invariant of the host side (R37, R180, R185, R190, R212). Its clauses about the sequence are put together
into what is known at a place in it (`HostSide.Known`), and each way in which the host moves on then owes only what is new at the
place it comes to. -/

namespace Sys2Proof.Machine

/-- The counts, which stand wherever the host is: attempts within the budget (R212), streams in bounds (R36). -/
structure HostSide.Counts (h : HostSide) : Prop where
  attempts : h.attempts ≤ h.maxAttempts
  consumed : h.rxPos ≤ h.rx.length
  taken : h.txTaken ≤ h.tx.length

/-- What is known at place `n` of the sequence, in the numbers of `HProgress.rank` (R37, R184, R185). -/
structure HostSide.Known (h : HostSide) (n : Nat) : Prop where
  synced : h.synced = true ↔ 1 ≤ n
  dev : 2 ≤ n → h.dev.isSome = true
  padded : 3 ≤ n → ∃ dev, h.dev = some dev ∧ dev.writeSize ≠ 0 ∧ dev.eraseSize ≠ 0 ∧ dev.maxDataLen ≠ 0
    ∧ h.padded = some (padTo dev.writeSize.toNat h.image.data)
  inBounds : 4 ≤ n → ∀ dev padded, h.dev = some dev → h.padded = some padded →
    imageOutOfBounds h.image.addr padded.length dev = false

/-- After the bounds check nothing more comes to be known. -/
theorem HostSide.Known.later {h : HostSide} {n m : Nat} (known : h.Known n) (hn : 4 ≤ n) (hm : 4 ≤ m) : h.Known m where
  synced := ⟨fun _ => by omega, fun _ => known.synced.mpr (by omega)⟩
  dev _ := known.dev (by omega)
  padded _ := known.padded (by omega)
  inBounds _ := known.inBounds hn

/-! ### The invariant from its parts -/

theorem HostSide.Inv.counts {h : HostSide} (hi : h.Inv) : h.Counts := ⟨hi.attempts, hi.consumed, hi.taken⟩

theorem HostSide.Inv.known {h : HostSide} {p : HProgress} {n : Nat} (hi : h.Inv) (hp : h.progress = p) (hr : p.rank = some n) :
    h.Known n := by
  subst hp
  exact ⟨hi.synced n hr, hi.dev n hr, hi.padded n hr, hi.inBounds n hr⟩

theorem HostSide.inv_of_known {h : HostSide} {n : Nat} (counts : h.Counts) (hr : h.progress.rank = some n) (known : h.Known n)
    (awaited : ∀ step, h.progress = .running step → h.phase ≠ .send → ∃ cmd, h.sent = some cmd ∧ step.sends cmd = true) :
    h.Inv := by
  obtain ⟨attempts, consumed, taken⟩ := counts
  have place : ∀ m, h.progress.rank = some m → h.Known m := fun m hm => Option.some.inj (hr.symm.trans hm) ▸ known
  exact ⟨attempts, consumed, taken, fun m hm => (place m hm).synced, fun m hm => (place m hm).dev, fun m hm => (place m hm).padded,
    fun m hm => (place m hm).inBounds, awaited⟩

/-- Nothing is claimed of the place of a host that has failed (R191). -/
theorem HostSide.inv_of_failed {h : HostSide} {e : HostError} (counts : h.Counts) (hp : h.progress = .failed e) : h.Inv := by
  obtain ⟨attempts, consumed, taken⟩ := counts
  constructor <;> simp [hp, HProgress.rank, attempts, consumed, taken]

/-! ### The moves of the host inside its sequence -/

theorem HostSide.inv_fail {h : HostSide} (counts : h.Counts) (e : HostError) : (h.fail e).Inv :=
  HostSide.inv_of_failed ⟨counts.attempts, counts.consumed, counts.taken⟩ (e := e) rfl

/-- A step of the sequence begins: it awaits no response yet. -/
theorem HostSide.inv_goTo {h : HostSide} {step : HStep} {n : Nat} (counts : h.Counts)
    (hr : (HProgress.running step).rank = some n) (known : h.Known n) : (h.goTo step).Inv :=
  HostSide.inv_of_known ⟨counts.attempts, counts.consumed, counts.taken⟩ (n := n) hr
    ⟨known.synced, known.dev, known.padded, known.inBounds⟩ fun _ _ hs => absurd rfl hs

namespace HostSide.Inv

variable {h : HostSide}

theorem advance (hi : h.Inv) {n : Nat} (hn : n ≤ h.unread.length) : (h.advance n).Inv := by
  have consumed : h.rxPos + n ≤ h.rx.length := by
    have := hi.consumed
    simp only [HostSide.unread, List.length_drop] at hn
    omega
  exact ⟨hi.attempts, consumed, hi.taken, hi.synced, hi.dev, hi.padded, hi.inBounds, hi.awaited⟩

/-- The same step goes on and awaits nothing. -/
theorem again (hi : h.Inv) (n : Nat) : (h.again n).Inv :=
  ⟨hi.attempts, hi.consumed, hi.taken, hi.synced, hi.dev, hi.padded, hi.inBounds, fun _ _ hs => absurd rfl hs⟩

theorem attemptFailed (hi : h.Inv) : h.attemptFailed.Inv := by
  unfold HostSide.attemptFailed
  split
  · exact ⟨hi.attempts, hi.consumed, hi.taken, hi.synced, hi.dev, hi.padded, hi.inBounds, fun _ _ hs => absurd rfl hs⟩
  · exact HostSide.inv_fail hi.counts _

/-- R180: after the bounds check the next step of the sequence finds all that it needs. -/
theorem goTo_later {step next : HStep} {n m : Nat} (hi : h.Inv) (hp : h.progress = .running step)
    (hr : (HProgress.running step).rank = some n) (hr' : (HProgress.running next).rank = some m) (hn : 4 ≤ n) (hm : 4 ≤ m) :
    (h.goTo next).Inv :=
  HostSide.inv_goTo hi.counts hr' ((hi.known hp hr).later hn hm)

/-- What is done between two commands: the Pad step comes to know the padded data, the bounds check that the image fits. -/
theorem of_goesOn {k : HostSide} (hi : h.Inv) (on : h.GoesOn k) : k.Inv := by
  induction on with
  | here => exact hi
  | @pad h k dev hp hd hw he hm _ ih =>
    have known := hi.known hp rfl
    refine ih (HostSide.inv_goTo (h := { h with padded := some (padTo dev.writeSize.toNat h.image.data) })
      ⟨hi.attempts, hi.consumed, hi.taken⟩ (n := 3) rfl ?_)
    exact ⟨by simpa using known.synced, fun _ => known.dev le_rfl, fun _ => ⟨dev, hd, hw, he, hm, rfl⟩, nofun⟩
  | @bounds h k dev padded hp hd hpd hb _ ih =>
    have known := hi.known hp rfl
    refine ih (HostSide.inv_goTo hi.counts (n := 4) rfl ?_)
    refine ⟨by simpa using known.synced, fun _ => known.dev (by decide), fun _ => known.padded le_rfl, fun _ dev' padded' hd' hpd' => ?_⟩
    cases hd.symm.trans hd'
    cases hpd.symm.trans hpd'
    exact hb
  | erase _ _ hp _ _ _ _ ih => exact ih (hi.goTo_later hp rfl rfl (by decide) (by decide))
  | write _ _ hp _ _ _ _ ih => exact ih (hi.goTo_later hp rfl rfl (by decide) (by decide))

/-- R182, R183, R186 to R190: a response read. -/
theorem of_takes {k : HostSide} (hi : h.Inv) (takes : h.Takes k) : k.Inv := by
  obtain rfl | ⟨hp, rfl | rfl⟩ | ⟨hp, dev, rfl⟩ | ⟨_, n, -, -, rfl⟩ | ⟨hp, rfl⟩ | ⟨_, e, -, rfl⟩ := takes
  · exact hi
  · exact hi.attemptFailed
  · exact HostSide.inv_goTo (h := { h with synced := true }) ⟨hi.attempts, hi.consumed, hi.taken⟩ (n := 1) rfl
      ⟨by simp, nofun, nofun, nofun⟩
  · have known := hi.known hp rfl
    exact HostSide.inv_goTo (h := { h with dev := some dev }) ⟨hi.attempts, hi.consumed, hi.taken⟩ (n := 2) rfl
      ⟨by simpa using known.synced, fun _ => rfl, nofun, nofun⟩
  · exact hi.again n
  · exact hi.goTo_later hp rfl rfl (by decide) (by decide)
  · exact HostSide.inv_fail hi.counts e

/-- Bytes written are there to be taken. -/
theorem counts_tx (hi : h.Inv) (bs : List Byte) : ({ h with tx := h.tx ++ bs } : HostSide).Counts :=
  ⟨hi.attempts, hi.consumed, by simpa using Nat.le_add_right_of_le hi.taken⟩

/-- R190: a command of the step is sent, and its response awaited. -/
theorem send {step : HStep} (hi : h.Inv) (hp : h.progress = .running step) {cmd : Instr} (hc : step.sends cmd = true)
    (bs : List Byte) : (h.send cmd bs).Inv := by
  obtain ⟨attempts, consumed, taken⟩ := hi.counts_tx bs
  refine ⟨attempts, consumed, taken, hi.synced, hi.dev, hi.padded, hi.inBounds, fun st hst _ => ⟨cmd, rfl, ?_⟩⟩
  cases hp.symm.trans hst
  exact hc

/-- R189: after Go the host is `DONE`. -/
theorem goDone (hi : h.Inv) (hp : h.progress = .running .go) (bs : List Byte) :
    ({ h with tx := h.tx ++ bs, progress := .done } : HostSide).Inv := by
  obtain ⟨attempts, consumed, taken⟩ := hi.counts_tx bs
  obtain ⟨synced, dev, padded, inBounds⟩ := (hi.known hp rfl).later (m := 8) (by decide) (by decide)
  exact HostSide.inv_of_known ⟨attempts, consumed, taken⟩ (n := 8) rfl ⟨synced, dev, padded, inBounds⟩ nofun

theorem sendIn {step : HStep} (hi : h.Inv) (hp : h.progress = .running step) {cmd : Instr} (hc : step.sends cmd = true)
    (budget : step = .sync → h.attempts < h.maxAttempts) (bs : List Byte) : (h.sendIn step cmd bs).Inv := by
  have sent := hi.send hp hc bs
  cases step with
  | sync =>
    exact ⟨budget rfl, sent.consumed, sent.taken, sent.synced, sent.dev, sent.padded, sent.inBounds, sent.awaited⟩
  | go => exact hi.goDone hp bs
  | info | pad | bounds | erase | write | sealImage => exact sent

/-- R195: a write that fails after some of its bytes ends the run, but in Go (R189). -/
theorem failWrite {step : HStep} (hi : h.Inv) (hp : h.progress = .running step) (bs : List Byte) (k : Nat) :
    (h.failWrite step bs k).Inv := by
  have failed (e : HostError) := HostSide.inv_fail (hi.counts_tx (bs.take k)) e
  cases step with
  | go => exact hi.goDone hp _
  | sync | info | pad | bounds | erase | write | sealImage => exact failed _

/-- R182, R195: a read that fails after some of its bytes. -/
theorem failRead (hi : h.Inv) (step : HStep) (k : Nat) : (h.failRead step k).Inv := by
  have read := hi.advance (h.failRead_consumes k)
  cases step with
  | sync => exact read.attemptFailed
  | info | pad | bounds | erase | write | sealImage | go => exact HostSide.inv_fail read.counts _

/-! ### The Transport, and a further session -/

/-- R54: no more bytes are taken than the host has written. -/
theorem take (hi : h.Inv) (n : Nat) : ({ h with txTaken := h.txTaken + (h.untaken.take n).length } : HostSide).Inv := by
  have taken : h.txTaken + (h.untaken.take n).length ≤ h.tx.length := by
    have := hi.taken
    simp only [HostSide.untaken, List.length_take, List.length_drop]
    omega
  exact ⟨hi.attempts, hi.consumed, taken, hi.synced, hi.dev, hi.padded, hi.inBounds, hi.awaited⟩

theorem receive (hi : h.Inv) (bs : List Byte) : ({ h with rx := h.rx ++ bs } : HostSide).Inv :=
  ⟨hi.attempts, by simpa using Nat.le_add_right_of_le hi.consumed, hi.taken, hi.synced, hi.dev, hi.padded, hi.inBounds, hi.awaited⟩

/-- R244: the sequence begins anew, the streams as they are. -/
theorem restart (hi : h.Inv) (image : Image) (n : Nat) : (h.restart image n).Inv :=
  HostSide.inv_of_known ⟨Nat.zero_le _, hi.consumed, hi.taken⟩ (n := 0) rfl
    ⟨by simp [HostSide.restart], nofun, nofun, nofun⟩ fun _ _ hs => absurd rfl hs

end HostSide.Inv

theorem HostSide.inv_create (p : Params) : (HostSide.create p).Inv :=
  HostSide.inv_of_known ⟨Nat.zero_le _, Nat.zero_le _, Nat.zero_le _⟩ (n := 0) rfl
    ⟨by simp [HostSide.create], nofun, nofun, nofun⟩ fun _ _ hs => absurd rfl hs

/-- Settles O55: nothing has been read, sent or listed in the flash, and the host stands at Sync. -/
theorem invariantsHoldAtCreation : Obligations.InvariantsHoldAtCreation := fun p =>
  ⟨State.sessionInv_create p, HostSide.inv_create p⟩

/-! ### The agents -/

/-- R180 to R195. -/
theorem hostStep_keeps_inv {s t : State} (hi : s.host.Inv) (hm : s.mover = .host) (h : hostStep s = .next t) : t.host.Inv := by
  obtain same | ⟨_, n, -, -, hn, takes⟩ | ⟨_, k, st, cmd, -, -, on, hp, hc, budget, -, -, sent⟩
    | ⟨_, j, -, -, on, ⟨stops, -⟩ | ⟨e, fails⟩⟩ := hostStep_cases hm h
  · rw [same]; exact hi
  · exact (hi.advance hn).of_takes takes
  · rw [sent]; exact (hi.of_goesOn on).sendIn hp hc budget _
  · rw [stops]; exact hi.of_goesOn on
  · rw [fails]; exact HostSide.inv_fail (hi.of_goesOn on).counts e

/-- R195. -/
theorem hostFail_keeps_inv {s : State} (hi : s.host.Inv) (n : Nat) : (hostFail n s).host.Inv := by
  obtain same | ⟨step, -, ⟨j, st, cmd, -, on, hp, -, failed⟩ | ⟨-, failed⟩⟩ := hostFail_cases n s
  · rw [same]; exact hi
  · rw [failed]; exact (hi.of_goesOn on).failWrite hp _ n
  · rw [failed]; exact hi.failRead step n

/-- A step of the device side reaches the flash in HANDLE only, and the host never. -/
theorem deviceStep_reaches {s t : State} (hm : s.mover ≠ .host) (h : deviceStep s = .next t) :
    t.host = s.host ∧ (t.flash = s.flash ∨ ∃ i, s.st = .handle ∧ s.heldInstr = .ok i ∧ CommandEffect i s t) := by
  obtain ⟨rfl, -⟩ | ⟨b, -, -, rfl⟩ | ⟨_, _, -, -, -, rfl⟩ | ⟨_, -, -, -, rfl⟩ | ⟨_, -, -, -, rfl⟩ | ⟨-, -, -, rfl⟩
    | ⟨_, -, -, -, rfl⟩ | ⟨i, hst, held, run⟩ | ⟨-, rfl⟩ := deviceStep_cases hm h
  case inr.inl =>
    obtain ⟨k, he⟩ | ⟨-, -, he⟩ := State.syncByte_cases b { s with rxPos := s.rxPos + 1 } <;> rw [he] <;> exact ⟨rfl, .inl rfl⟩
  case inr.inr.inr.inr.inr.inr.inr.inl =>
    have effect := commandEffect_of_exec (State.heldInstr_isCommand held).1 run
    exact ⟨effect.frame.host, .inr ⟨i, hst, held, effect⟩⟩
  all_goals exact ⟨rfl, .inl rfl⟩

/-- R149: a Transport failure on the device side reaches neither the host nor the flash. -/
theorem deviceFail_reaches (s : State) : (deviceFail s).host = s.host ∧ (deviceFail s).flash = s.flash := by
  obtain same | ⟨-, ends | ⟨-, ends⟩⟩ := deviceFail_cases s
  · rw [same]; exact ⟨rfl, rfl⟩
  · rw [ends]; exact ⟨rfl, rfl⟩
  · rw [ends]; exact ⟨rfl, rfl⟩

/-- Settles O57, by the agent whose move the step is. -/
theorem everyStepKeepsHostInvariant : Obligations.EveryStepKeepsHostInvariant := by
  intro s t hi h
  obtain ⟨hm, u, hu, rfl⟩ | ⟨hm, u, hu, rfl⟩ | ⟨n, -, rfl⟩ | ⟨n, -, rfl⟩ | ⟨bs, -, rfl⟩ | ⟨n, bs, -, rfl⟩ | ⟨-, rfl⟩
    | ⟨n, -, rfl⟩ | ⟨p, -, rfl⟩ | ⟨image, n, -, rfl⟩ := step_cases h
  all_goals rw [State.popAgenda_host]
  · rw [(deviceStep_reaches (by simp [hm]) hu).1]; exact hi
  · exact hostStep_keeps_inv (t := u) hi hm hu
  · exact hi.take n
  · exact hi.receive _
  · exact hi
  · exact hi.take n
  · rw [(deviceFail_reaches s).1]; exact hi
  · exact hostFail_keeps_inv hi n
  · exact HostSide.inv_create p
  · rw [State.newFlashing_host]
    split
    · exact hi.restart image n
    · exact hi

end Sys2Proof.Machine
end

section
/-! SUPPORT, and O59. Only `ERAS` and `WRIT` reach the flash to write it (R34, R160). -/

namespace Sys2Proof.Machine

/-- R34: a step of the device side leaves the flash as it is, or it runs `ERAS` or `WRIT` in HANDLE. -/
theorem deviceStep_flash {s t : State} (hm : s.mover ≠ .host) (h : deviceStep s = .next t) :
    t.flash = s.flash ∨ s.st = .handle ∧ (s.heldOpcode = .ok .eras ∨ s.heldOpcode = .ok .writ) := by
  obtain ⟨-, same | ⟨i, hst, held, effect⟩⟩ := deviceStep_reaches hm h
  · exact .inl same
  obtain ⟨-, op, hop, hheld⟩ := State.heldInstr_isCommand held
  by_cases he : op = .eras
  · exact .inr ⟨hst, .inl (he ▸ hheld)⟩
  by_cases hw : op = .writ
  · exact .inr ⟨hst, .inr (hw ▸ hheld)⟩
  · exact .inl (effect.flashKept (by simpa [hop] using he) (by simpa [hop] using hw))

/-- Settles O59, by the agent whose move the step is. -/
theorem onlyEraseAndWriteChangeFlash : Obligations.OnlyEraseAndWriteChangeFlash := by
  intro s t hn h changed
  obtain ⟨hm, u, hu, rfl⟩ | ⟨-, u, -, rfl⟩ | ⟨n, -, rfl⟩ | ⟨n, -, rfl⟩ | ⟨bs, -, rfl⟩ | ⟨n, bs, -, rfl⟩ | ⟨-, rfl⟩
    | ⟨n, -, rfl⟩ | ⟨p, hp, -⟩ | ⟨image, n, -, rfl⟩ := step_cases h
  · obtain same | held := deviceStep_flash (by simp [hm]) hu
    · exact absurd same changed
    · exact ⟨hm, held⟩
  · exact absurd rfl changed
  · exact absurd rfl changed
  · exact absurd rfl changed
  · exact absurd rfl changed
  · exact absurd rfl changed
  · exact absurd (deviceFail_reaches s).2 changed
  · exact absurd rfl changed
  · exact absurd hp (hn p)
  · exact absurd (s.newFlashing_flash image n) changed

end Sys2Proof.Machine
end

section
/-! SUPPORT, O36, O37 and O52. A write to the flash done again, and read back (R52, R57, R61, R64); the Transport's deliveries (R54). -/

namespace Sys2Proof.Machine

/-! ### What `READ` and `WRIT` answer -/

/-- R123: `OKOK` with a payload and no arguments is the tag and the payload. -/
theorem encodeResp_payload (data : List Byte) : encodeResp ⟨.okok, [], data⟩ = [0x4F, 0x4B, 0x4F, 0x4B] ++ data := rfl

/-- R163. -/
theorem exec_read (addr len : Word) (s : State) :
    exec (.read addr len) s = .next
      { s with
        resp := s.resp.write ⟨.okok, [], s.readClipped addr len⟩
        tx := s.tx ++ encodeResp ⟨.okok, [], s.readClipped addr len⟩
        st := .readOpcode } :=
  complete_of_success ⟨.okok, [], s.readClipped addr len⟩ .readOpcode s (Nat.zero_le 5) nofun

/-- R165. -/
theorem exec_writ {addr len : Word} {data : List Byte} (hw : (Instr.writ addr len data).wellFormed = true) (s : State) :
    exec (.writ addr len data) s = .next
      { s with
        resp := s.resp.write ⟨.okok, [crc32 data], []⟩
        crcAcc := crcAbsorb crcParams.init data
        flash := (s.writeClipped addr len data).flash
        tx := s.tx ++ encodeResp ⟨.okok, [crc32 data], []⟩
        st := .readOpcode } :=
  (if_pos hw).trans
    (complete_of_success ⟨.okok, [crc32 data], []⟩ .readOpcode ((s.crcInit.crcUpdate data).writeClipped addr len data) (by simp) nofun)

/-! ### A write done again (R61) -/

/-- R52: a run of bytes that is stored already is only replaced by itself. This does not need the canonical form. -/
theorem Flash.write_write (f : Flash) (lo : Nat) (bs : List Byte) : (f.write lo bs).write lo bs = f.write lo bs := by
  have run := cellsFor_addr_ge f.init bs lo
  have below : (cellsFor f.init lo bs).filter (fun c => decide (c.1 < lo)) = [] :=
    List.filter_eq_nil_iff.mpr fun c hc => by have := run c hc; simp only [decide_eq_true_eq]; omega
  have above : (cellsFor f.init lo bs).filter (fun c => decide (lo + bs.length ≤ c.1)) = [] :=
    List.filter_eq_nil_iff.mpr fun c hc => by have := run c hc; simp only [decide_eq_true_eq]; omega
  have apart (c : Host.Cell) : ¬(c.1 < lo ∧ lo + bs.length ≤ c.1) := by omega
  have apart' (c : Host.Cell) : ¬(lo + bs.length ≤ c.1 ∧ c.1 < lo) := by omega
  simp [Flash.write, List.filter_append, List.filter_filter, below, above, ← Bool.decide_and, apart, apart']

/-- R61: the same clipped write, to any state with the flash that the first one left and the same geometry. -/
theorem State.writeClipped_again {s t : State} {addr len : Word} {bs : List Byte} (hg : t.geom = s.geom)
    (hf : t.flash = (s.writeClipped addr len bs).flash) : (t.writeClipped addr len bs).flash = t.flash := by
  have lo : t.clipLo addr = s.clipLo addr := by unfold State.clipLo State.memLo; rw [hg]
  have hi : t.clipHi addr len = s.clipHi addr len := by unfold State.clipHi State.memHi; rw [hg]
  unfold State.writeClipped State.storeClipped at hf ⊢
  rw [State.withFlash_flash] at hf ⊢
  rw [lo, hi]
  split
  case isTrue reached => rw [hf, if_pos reached, Flash.write_write]
  case isFalse => rfl

/-- Settles O36: both writes clip the range by the same geometry, and the second stores a run that is stored already. -/
theorem writeIsIdempotentOnFlash : Obligations.WriteIsIdempotentOnFlash := by
  intro addr len data s t u first second
  have hw := wellFormed_of_exec rfl first
  rw [exec_writ hw] at first second
  cases first
  cases second
  exact State.writeClipped_again (s := s) rfl rfl

/-! ### A write read back (R57, R64) -/

/-- R163: a range that is populated throughout is read whole. -/
theorem State.readClipped_of_populated {s : State} {addr len : Word} (hlo : s.memLo ≤ addr.toNat)
    (hhi : addr.toNat + len.toNat ≤ s.memHi) : s.readClipped addr len = s.memRead addr.toNat len.toNat := by
  unfold State.readClipped State.clipLo State.clipHi
  rw [Nat.max_eq_left hlo, Nat.min_eq_left hhi, Nat.add_sub_cancel_left]
  split
  case isTrue => rfl
  case isFalse empty => rw [show len.toNat = 0 by omega]; rfl

/-- R10: a read answers the bytes that stand there, in ascending address order. -/
theorem State.memRead_eq {s : State} {lo : Nat} {bs : List Byte} (h : ∀ i (hi : i < bs.length), s.flash.read (lo + i) = bs[i]) :
    s.memRead lo bs.length = bs :=
  List.ext_getElem (by simp [State.memRead]) fun i _ hi => by simp [State.memRead, h i hi]

/-- R56, R57: what was written to a range that is populated throughout is read there. -/
theorem State.readClipped_writeClipped {s : State} {addr len : Word} {bs : List Byte} (hl : bs.length = len.toNat)
    (hlo : s.memLo ≤ addr.toNat) (hhi : addr.toNat + len.toNat ≤ s.memHi) :
    (s.writeClipped addr len bs).readClipped addr len = bs := by
  rw [State.readClipped_of_populated (s := s.writeClipped addr len bs) hlo hhi, ← hl]
  refine State.memRead_eq fun i hi => ?_
  have populated : s.populated (addr.toNat + i) = true := by
    simp only [State.populated, Bool.and_eq_true, decide_eq_true_eq]; omega
  rw [State.read_writeClipped s addr len bs hl, if_pos ⟨by omega, populated⟩, Nat.add_sub_cancel_left,
    List.getD_eq_getElem _ _ hi]

/-- Settles O37: the state that `WRIT` leaves has the geometry of `s` and the flash of the clipped write, and `READ` reads no more. -/
theorem readAfterWriteReturnsPayload : Obligations.ReadAfterWriteReturnsPayload := by
  intro addr len data s hw hlo hhi
  refine ⟨_, _, exec_writ hw s, exec_read addr len _, ?_⟩
  have payload : (s.writeClipped addr len data).readClipped addr len = data :=
    State.readClipped_writeClipped (by simpa [Instr.wellFormed] using hw) hlo hhi
  show _ ++ encodeResp ⟨.okok, [], (s.writeClipped addr len data).readClipped addr len⟩ = _
  rw [payload, encodeResp_payload]
  exact (List.append_assoc _ _ _).symm

/-! ### The Transport (R54) -/

/-- Settles O52: where `n` bytes are there to be taken, as many are counted taken. -/
theorem transportDeliversInOrder : Obligations.TransportDeliversInOrder := by
  intro s n
  have taken {l : List Byte} {k : Nat} (h : k + n ≤ l.length) : ((l.drop k).take n).length = n := by
    rw [List.length_take, List.length_drop]; omega
  constructor
  · intro hm there
    rw [step_eq, hm]
    simp only [runMove, mapNext_next, State.deliver, State.popAgenda, HostSide.untaken, taken there]
  · intro hm there
    rw [step_eq, hm]
    simp only [runMove, mapNext_next, State.deliverBack, State.popAgenda, taken there]

end Sys2Proof.Machine
end

section
/-! SUPPORT, and O13, O14, O15, O24 and O38. The formats of the commands (R83), a tag of no command (R92, R122), the rows and frames
that the spec writes out (R98), and a status that the device side reads (R92, R202). -/

namespace Sys2Proof.Machine

/-! ### The formats of the commands -/

/-- R82, R121: the encoding of a well-formed record, its bytes written out, and its length. -/
theorem encode_format {i : Instr} {bs : List Byte} (hw : i.wellFormed = true) (hb : i.bytes = bs) :
    ∃ bs', encode i = some bs' ∧ bs' = bs ∧ bs'.length = 4 + 4 * i.args.length + i.payload.length :=
  ⟨i.bytes, encode_of_wellFormed hw, hb, i.bytes_length⟩

/-- R120: a `WRIT` record is well-formed exactly if its payload has the announced length. -/
theorem writ_wellFormed_eq (addr len : Word) (data : List Byte) :
    (Instr.writ addr len data).wellFormed = decide (data.length = len.toNat) := rfl

/-- Settles O13: the tag, the arguments and the payload of each row, appended; only of `WRIT` is there something to check. -/
theorem commandFormatsAndLengths : Obligations.CommandFormatsAndLengths := by
  refine ⟨encode_of_wellFormed rfl, encode_of_wellFormed rfl, fun a => encode_format (i := .gogo a) rfl rfl,
    fun a n => encode_format (i := .read a n) rfl rfl, fun a n => encode_format (i := .eras a n) rfl rfl, ?announced,
    ?otherLength, fun a n c => encode_format (i := .sealImage a n c) rfl rfl⟩
  case announced =>
    intro a n d hd
    rw [← hd]
    exact encode_format (i := .writ a n d) (by rw [writ_wellFormed_eq, decide_eq_true hd]) rfl
  case otherLength =>
    intro a n d hd
    exact encode_of_illFormed (by rw [writ_wellFormed_eq, decide_eq_false hd])

/-! ### Tags and frames at the decoder -/

/-- R122: behind a tag of no opcode the decoder reads nothing. -/
theorem decodeCmd_of_unknownTag {t : Tag} (h : ∀ op : Opcode, op.tag ≠ t) (rest : List Byte) :
    decodeCmd (t.bytes ++ rest) = .unknownOpcode rest := by
  unfold decodeCmd
  rw [takeTag_bytes]
  dsimp only
  rw [opcodeOf_eq_none h]

/-- Settles O14. -/
theorem unknownTagConsumesFourBytes : Obligations.UnknownTagConsumesFourBytes :=
  ⟨fun _ rest h => decodeCmd_of_unknownTag h rest, fun st op => opcode_tag_ne_status_tag op st⟩

/-- Settles O15: eleven closed runs of the decoder, evaluated one by one. -/
theorem tableWordsAndFramesDecode : Obligations.TableWordsAndFramesDecode := by
  refine ⟨?_, ?_, ?_, ?_, ?_, ?_, ?_, ?_, ?_, ?_, ?_⟩ <;> decide

/-! ### A status read by the device side -/

/-- R92, R204: as `exec_status_at_device`, for an `OKOK` with any arguments and payload. -/
theorem exec_response_at_device {s : State} (h : s.mover ≠ .host) (r : Response) : exec r.toInstr s = .next s.raise := by
  obtain ⟨status, rargs, rdata⟩ := r
  cases status
  case okok =>
    show execOkok rargs rdata s = .next s.raise
    unfold execOkok
    cases hm : s.mover
    case host => exact absurd hm h
    all_goals rfl
  case err => exact exec_status_at_device h .err
  case pico => exact exec_status_at_device h .pico

/-- Settles O38. -/
theorem responseFramesRaiseAtDevice : Obligations.ResponseFramesRaiseAtDevice := fun rargs rdata _ h =>
  ⟨exec_response_at_device h ⟨.okok, rargs, rdata⟩, exec_response_at_device h ⟨.err, [], []⟩,
    exec_response_at_device h ⟨.pico, [], []⟩⟩

/-- R89, log entry 2: READ_OPCODE runs a status tag as the instruction of its row. -/
theorem stepReadOpcode_of_statusTag {s : State} {st : Status} {rest : List Byte} (hu : s.unread = st.tag.bytes ++ rest) :
    stepReadOpcode s = exec (statusInstr st) { s with rxPos := s.rxPos + 4, opcode := some st.tag } := by
  rw [stepReadOpcode_eq hu, opcodeOf_eq_none fun op => opcode_tag_ne_status_tag op st]
  dsimp only
  rw [statusOf_tag]

/-- Settles O24: the four bytes consumed, the tag is run as a status that the device side reads. -/
theorem statusTagStepTakesUnknownOpcodeError : Obligations.StatusTagStepTakesUnknownOpcodeError := by
  intro s st rest hm hst hu s1
  have run : deviceStep s = exec (statusInstr st) s1 := by
    unfold deviceStep
    rw [hst]
    exact stepReadOpcode_of_statusTag hu
  have atDevice : s1.mover ≠ .host := by
    show s.mover ≠ .host
    rw [hm]
    exact nofun
  exact ⟨by rw [step_device hm, run], exec_status_at_device atDevice st⟩

end Sys2Proof.Machine
end

section
/-! SUPPORT, and O1, O2, O8. The little-endian codec U1 as natural numbers (R100 to R102), and the laws of ALIGN (R112, R113). -/

namespace Sys2Proof.Machine

/-! ### U1 LE32 -/

/-- Settles O1: byte `i` is the quotient by `256 ^ i`, of which the last is below 256. -/
theorem enc32LeastSignificantByteFirst : Obligations.Enc32LeastSignificantByteFirst := by
  intro v
  have top : v.toNat / 16777216 % 256 = v.toNat / 16777216 := by omega
  simp [enc32, BitVec.extractLsb'_toNat, Nat.shiftRight_eq_div_pow, top]

/-- R101: a byte in its place is the byte times the weight of the place. -/
theorem shiftedByte_toNat (b : Byte) {k : Nat} (hk : k ≤ 24) : (b.setWidth 32 <<< k).toNat = b.toNat * 2 ^ k := by
  have fits : b.toNat * 2 ^ k < 2 ^ 32 :=
    calc b.toNat * 2 ^ k < 2 ^ 8 * 2 ^ k := Nat.mul_lt_mul_of_pos_right b.isLt (Nat.two_pow_pos k)
      _ = 2 ^ (8 + k) := (Nat.pow_add 2 8 k).symm
      _ ≤ 2 ^ 32 := Nat.pow_le_pow_right (by decide) (by omega)
  rw [BitVec.toNat_shiftLeft, BitVec.toNat_setWidth_of_le (by decide), Nat.shiftLeft_eq, Nat.mod_eq_of_lt fits]

theorem dec32_toNat (b0 b1 b2 b3 : Byte) :
    (dec32 b0 b1 b2 b3).toNat = b0.toNat + 256 * b1.toNat + 65536 * b2.toNat + 16777216 * b3.toNat := by
  simp only [dec32, BitVec.toNat_add, BitVec.toNat_setWidth_of_le (show 8 ≤ 32 by decide), shiftedByte_toNat _ (show 8 ≤ 24 by decide),
    shiftedByte_toNat _ (show 16 ≤ 24 by decide), shiftedByte_toNat _ (show 24 ≤ 24 by decide)]
  omega

/-- R102: the sum determines its four digits to the base 256. -/
theorem dec32_injective {b0 b1 b2 b3 c0 c1 c2 c3 : Byte} (h : dec32 b0 b1 b2 b3 = dec32 c0 c1 c2 c3) :
    b0 = c0 ∧ b1 = c1 ∧ b2 = c2 ∧ b3 = c3 := by
  have sums := congrArg BitVec.toNat h
  simp only [dec32_toNat] at sums
  refine ⟨?_, ?_, ?_, ?_⟩ <;> apply BitVec.eq_of_toNat_eq <;> omega

/-- R102: a natural below 2 ^ 32 is the sum of its four digits. -/
theorem dec32_enc32 (v : Word) :
    dec32 (v.extractLsb' 0 8) (v.extractLsb' 8 8) (v.extractLsb' 16 8) (v.extractLsb' 24 8) = v := by
  apply BitVec.eq_of_toNat_eq
  simp only [dec32_toNat, BitVec.extractLsb'_toNat, Nat.shiftRight_eq_div_pow]
  omega

/-- R102: `dec32` gives the same for the bytes of `enc32 (dec32 b0 b1 b2 b3)`, and it is injective. -/
theorem enc32_dec32 (b0 b1 b2 b3 : Byte) : enc32 (dec32 b0 b1 b2 b3) = [b0, b1, b2, b3] := by
  obtain ⟨e0, e1, e2, e3⟩ := dec32_injective (dec32_enc32 (dec32 b0 b1 b2 b3))
  rw [enc32, e0, e1, e2, e3]

/-- Settles O2. -/
theorem dec32IsLittleEndianSumAndInvertsEnc32 : Obligations.Dec32IsLittleEndianSumAndInvertsEnc32 :=
  ⟨dec32_toNat, fun _ _ _ _ _ _ _ _ h => dec32_injective h, fun v => ⟨_, _, _, _, rfl, dec32_enc32 v⟩, enc32_dec32⟩

/-! ### ALIGN -/

/-- R112. -/
theorem dvd_align (v n : Nat) : n ∣ align v n := Nat.dvd_mul_left n _

/-- R112: among `n` consecutive naturals, the multiple of `n` is the one that `align` finds. -/
theorem align_eq_of_dvd {v n w : Nat} (hd : n ∣ w) (hlo : v ≤ w) (hhi : w < v + n) : align v n = w := by
  obtain ⟨k, rfl⟩ := hd
  have quotient : (v + n - 1) / n = k := by
    rw [Nat.mul_comm] at hlo hhi
    exact Nat.div_eq_of_lt_le (by omega) (by rw [Nat.add_mul]; omega)
  rw [align, quotient, Nat.mul_comm]

theorem align_of_dvd {v n : Nat} (hn : 0 < n) (hd : n ∣ v) : align v n = v :=
  align_eq_of_dvd hd le_rfl (Nat.lt_add_of_pos_right hn)

/-- R113: the division of `v + n - 1` leaves a remainder below `n`. -/
theorem align_bounds (v : Nat) {n : Nat} (hn : 0 < n) : v ≤ align v n ∧ align v n < v + n := by
  have split : align v n + (v + n - 1) % n = v + n - 1 := Nat.div_add_mod' (v + n - 1) n
  have rem := Nat.mod_lt (v + n - 1) hn
  omega

/-- Settles O8: the laws about named values are those of a multiple, and `align (n + 1) n` is the multiple `2 * n`. -/
theorem alignRoundsUpToMultiple : Obligations.AlignRoundsUpToMultiple := by
  intro n hn
  refine ⟨align_of_dvd hn (dvd_zero n), align_of_dvd hn dvd_rfl,
    align_eq_of_dvd (Nat.dvd_mul_left n 2) (by omega) (by omega), fun v => ?_⟩
  obtain ⟨lo, hi⟩ := align_bounds v hn
  exact ⟨lo, by omega, dvd_align v n, ⟨fun h => h ▸ dvd_align v n, align_of_dvd hn⟩, align_of_dvd hn (dvd_align v n),
    align_of_dvd Nat.one_pos (one_dvd v)⟩

end Sys2Proof.Machine
end

section
/-! SUPPORT, and O3 to O7 and O53. The checksum U2 as a linear register over GF(2) (R105, R106), its laws (R107, R108), the
comparator U3 (R110), and what a changed byte of a `WRIT` makes of the host (R187). -/

namespace Sys2Proof.Machine

/-! ### The turns of the loop (R105) -/

/-- R105: what a turn adds to the shifted accumulator, by the bit shifted out. -/
def crcFeedback : Bool → Word
  | true => crcParams.polyReflected
  | false => 0

theorem crcFeedback_xor (b c : Bool) : crcFeedback (b ^^ c) = crcFeedback b ^^^ crcFeedback c := by
  cases b <;> cases c <;> rfl

theorem crcShift_eq (acc : Word) : crcShift acc = acc >>> 1 ^^^ crcFeedback (acc.getLsbD 0) := by
  unfold crcShift
  cases acc.getLsbD 0
  case true => rfl
  case false => exact BitVec.xor_zero.symm

/-- R108: a turn is linear over GF(2). -/
theorem crcShift_xor (x y : Word) : crcShift (x ^^^ y) = crcShift x ^^^ crcShift y := by
  simp only [crcShift_eq, BitVec.ushiftRight_xor_distrib, BitVec.getLsbD_xor, crcFeedback_xor]
  ac_rfl

/-- R108: the generator has a non-zero constant term, so its reflection has bit 31 set, and only zero is shifted to zero. -/
theorem eq_zero_of_crcShift_eq_zero {x : Word} (h : crcShift x = 0) : x = 0 := by
  have shifted : x >>> 1 = crcFeedback (x.getLsbD 0) := BitVec.xor_eq_zero_iff.mp ((crcShift_eq x).symm.trans h)
  have top : (x >>> 1).getLsbD 31 = false := by simp
  cases low : x.getLsbD 0 <;> rw [low] at shifted
  case true =>
    rw [shifted] at top
    exact absurd top (by decide)
  case false =>
    apply BitVec.eq_of_getLsbD_eq
    intro i _
    cases i with
    | zero => rw [low]; rfl
    | succ i =>
      have bit := congrArg (·.getLsbD i) shifted
      simpa [crcFeedback, Nat.add_comm] using bit

theorem crcShift_injective {x y : Word} (h : crcShift x = crcShift y) : x = y :=
  BitVec.xor_eq_zero_iff.mp (eq_zero_of_crcShift_eq_zero ((crcShift_xor x y).trans (BitVec.xor_eq_zero_iff.mpr h)))

theorem crcShifts_xor (n : Nat) (x y : Word) : crcShifts n (x ^^^ y) = crcShifts n x ^^^ crcShifts n y := by
  induction n generalizing x y with
  | zero => rfl
  | succ n ih => rw [crcShifts, crcShift_xor, ih]; rfl

theorem crcShifts_injective {n : Nat} {x y : Word} (h : crcShifts n x = crcShifts n y) : x = y := by
  induction n generalizing x y with
  | zero => exact h
  | succ n ih => exact crcShift_injective (ih h)

theorem crcShifts_add (m n : Nat) (acc : Word) : crcShifts (m + n) acc = crcShifts n (crcShifts m acc) := by
  induction m generalizing acc with
  | zero => rw [Nat.zero_add]; rfl
  | succ m ih => rw [Nat.succ_add]; exact ih (crcShift acc)

/-- While zeros are shifted out there is no feedback. -/
theorem crcShifts_of_low_zero {n : Nat} {acc : Word} (h : ∀ i < n, acc.getLsbD i = false) : crcShifts n acc = acc >>> n := by
  induction n generalizing acc with
  | zero => exact (BitVec.ushiftRight_zero acc).symm
  | succ n ih =>
    have turn : crcShift acc = acc >>> 1 := by
      rw [crcShift_eq, h 0 (Nat.succ_pos n)]
      exact BitVec.xor_zero
    have low (i : Nat) (hi : i < n) : (acc >>> 1).getLsbD i = false := by
      rw [BitVec.getLsbD_ushiftRight]
      exact h (1 + i) (by omega)
    rw [crcShifts, turn, ih low, ← BitVec.shiftRight_add, Nat.add_comm]

/-! ### A byte (R105, R107) -/

/-- A word is its low byte and the rest in their places. -/
theorem lowByte_xor_rest (v : Word) : (v.setWidth 8).setWidth 32 ^^^ v >>> 8 <<< 8 = v := by
  apply BitVec.eq_of_getLsbD_eq
  intro i hi
  by_cases low : i < 8
  · simp [low, hi]
  · simp [low, hi, Nat.add_sub_cancel' (Nat.le_of_not_lt low)]

theorem byte_ushiftRight_eight (b : Byte) : b.setWidth 32 >>> 8 = 0#32 := by
  apply BitVec.eq_of_getLsbD_eq
  intro i _
  simp

/-- Eight turns absorb the low byte of what is added to the accumulator and shift the rest of it down. -/
theorem crcShifts_eight (acc v : Word) : crcShifts 8 (acc ^^^ v) = crcByte acc (v.setWidth 8) ^^^ v >>> 8 := by
  have rest : crcShifts 8 (v >>> 8 <<< 8) = v >>> 8 := by
    have shifted := congrArg (fun w : Word => w >>> 8) (lowByte_xor_rest v)
    simp only [BitVec.ushiftRight_xor_distrib, byte_ushiftRight_eight, BitVec.zero_xor] at shifted
    rw [crcShifts_of_low_zero fun i hi => by simp [hi], shifted]
  calc crcShifts 8 (acc ^^^ v)
      = crcShifts 8 (acc ^^^ (v.setWidth 8).setWidth 32 ^^^ v >>> 8 <<< 8) := by rw [BitVec.xor_assoc, lowByte_xor_rest]
    _ = crcByte acc (v.setWidth 8) ^^^ v >>> 8 := by rw [crcShifts_xor, rest]; rfl

theorem crcByte_injective_acc {x y : Word} {b : Byte} (h : crcByte x b = crcByte y b) : x = y :=
  (BitVec.xor_left_inj _).mp (crcShifts_injective h)

theorem crcByte_injective_byte {acc : Word} {b c : Byte} (h : crcByte acc b = crcByte acc c) : b = c := by
  have widened : b.setWidth 32 = c.setWidth 32 := (BitVec.xor_right_inj _).mp (crcShifts_injective h)
  have narrowed := congrArg (BitVec.setWidth 8) widened
  simpa using narrowed

/-- R107: from the zero accumulator a byte step is the table's entry. -/
theorem crcByte_zero (b : Byte) : crcByte 0#32 b = crcTable b := by rw [crcByte, BitVec.zero_xor, crcTable]

/-- R107: the byte and the accumulator are added first, and the sum is absorbed from the zero accumulator. -/
theorem crcByte_eq_table (acc : Word) (b : Byte) :
    crcByte acc b = crcTable ((acc ^^^ b.setWidth 32).setWidth 8) ^^^ (acc >>> 8) := by
  calc crcByte acc b
      = crcShifts 8 (0#32 ^^^ (acc ^^^ b.setWidth 32)) := by rw [BitVec.zero_xor, crcByte]
    _ = crcByte 0#32 ((acc ^^^ b.setWidth 32).setWidth 8) ^^^ (acc ^^^ b.setWidth 32) >>> 8 := crcShifts_eight _ _
    _ = crcTable ((acc ^^^ b.setWidth 32).setWidth 8) ^^^ (acc >>> 8) := by
      rw [BitVec.ushiftRight_xor_distrib, byte_ushiftRight_eight, BitVec.xor_zero, crcByte_zero]

/-- Settles O4: the loop by `crcByte_eq_table`, the listed entries by running it. -/
theorem crcTableFormAgreesWithLoop : Obligations.CrcTableFormAgreesWithLoop :=
  ⟨crcByte_eq_table, by decide, by decide, by decide⟩

/-! ### A message (R106, R108) -/

/-- R108, law 1. -/
theorem crcAbsorb_append (acc : Word) (a b : List Byte) : crcAbsorb acc (a ++ b) = crcAbsorb (crcAbsorb acc a) b :=
  List.foldl_append

theorem crcAbsorb_injective {x y : Word} {m : List Byte} (h : crcAbsorb x m = crcAbsorb y m) : x = y := by
  induction m generalizing x y with
  | nil => exact h
  | cons b m ih => exact crcByte_injective_acc (ih h)

theorem crcFinal_injective {x y : Word} (h : crcFinal x = crcFinal y) : x = y := (BitVec.xor_left_inj _).mp h

/-- Settles O3: five runs of the loop, and R108's law 1. -/
theorem crcOfKnownMessagesAndStreaming : Obligations.CrcOfKnownMessagesAndStreaming := by
  refine ⟨by decide, by decide, by decide, by decide +kernel, by decide +kernel, fun s a b => ?_⟩
  exact congrArg crcFinal (crcAbsorb_append crcParams.init a b).symm

/-- R108, law 3: the changed byte makes a different accumulator, and what follows keeps different accumulators apart. -/
theorem crc32_ne_of_changed_byte (a c : List Byte) {b b' : Byte} (hb : b ≠ b') :
    crc32 (a ++ b :: c) ≠ crc32 (a ++ b' :: c) := by
  intro same
  have accs := crcFinal_injective same
  rw [crcAbsorb_append, crcAbsorb_append] at accs
  exact hb (crcByte_injective_byte (crcAbsorb_injective (m := c) accs))

/-- Settles O5. -/
theorem crcDetectsOneChangedByte : Obligations.CrcDetectsOneChangedByte := fun a c _ _ hb => crc32_ne_of_changed_byte a c hb

/-- R105: four bytes absorbed are a word added to the accumulator and 32 turns. -/
theorem crcAbsorb_enc32 (acc v : Word) : crcAbsorb acc (enc32 v) = crcShifts 32 (acc ^^^ v) := by
  have shiftedOut : v >>> 8 >>> 8 >>> 8 >>> 8 = 0 := by
    simp only [← BitVec.shiftRight_add]
    exact BitVec.ushiftRight_eq_zero le_rfl
  have byte0 : v.setWidth 8 = v.extractLsb' 0 8 := by
    rw [← BitVec.setWidth_ushiftRight_eq_extractLsb, BitVec.ushiftRight_zero]
  have byte1 : (v >>> 8).setWidth 8 = v.extractLsb' 8 8 := BitVec.setWidth_ushiftRight_eq_extractLsb
  have byte2 : (v >>> 8 >>> 8).setWidth 8 = v.extractLsb' 16 8 := by
    rw [← BitVec.shiftRight_add, BitVec.setWidth_ushiftRight_eq_extractLsb]
  have byte3 : (v >>> 8 >>> 8 >>> 8).setWidth 8 = v.extractLsb' 24 8 := by
    rw [← BitVec.shiftRight_add, ← BitVec.shiftRight_add, BitVec.setWidth_ushiftRight_eq_extractLsb]
  show _ = crcShifts (8 + (8 + (8 + 8))) (acc ^^^ v)
  rw [crcShifts_add, crcShifts_add, crcShifts_add, crcShifts_eight, crcShifts_eight,
    crcShifts_eight, crcShifts_eight, shiftedOut, byte0, byte1, byte2, byte3]
  exact BitVec.xor_zero.symm

/-- Settles O6: the message's accumulator cancels against its checksum, and 32 turns of the final exclusive-or are left. -/
theorem crcResidueIsConstant : Obligations.CrcResidueIsConstant := by
  intro m
  have cancels : crcAbsorb crcParams.init m ^^^ crc32 m = crcParams.xorOut := by
    rw [crc32, crcFinal, ← BitVec.xor_assoc, BitVec.xor_self, BitVec.zero_xor]
  have residue : crcFinal (crcShifts 32 crcParams.xorOut) = 0x2144DF1C := by decide +kernel
  rw [crc32, crcAbsorb_append, crcAbsorb_enc32, cancels, residue]

/-! ### U3 VALID (R110) -/

theorem crcCheck_eq_true_iff {e : Word} {m : List Byte} : crcCheck e m = true ↔ crc32 m = e := decide_eq_true_iff

/-- Settles O7. -/
theorem crcCheckAcceptsExactlyOneChecksum : Obligations.CrcCheckAcceptsExactlyOneChecksum := fun m =>
  ⟨fun _ => crcCheck_eq_true_iff, crc32 m, crcCheck_eq_true_iff.mpr rfl, fun _ he => (crcCheck_eq_true_iff.mp he).symm⟩

/-! ### A chunk changed on the way (R187) -/

/-- R187: the host that awaits a `WRIT` is answered a checksum that is not the chunk's. -/
theorem exec_okok_of_wrongChecksum {s : State} {addr len checksum : Word} {chunk : List Byte} (hm : s.mover = .host)
    (hp : s.host.progress = .running .write) (hs : s.host.sent = some (.writ addr len chunk)) (hc : crc32 chunk ≠ checksum) :
    exec (.okok [checksum] []) s = .next
      (s.withHost (s.host.fail (.integrityError addr.toNat len.toNat (crc32 chunk) checksum))) := by
  have rejected : ¬crcCheck checksum chunk = true := mt crcCheck_eq_true_iff.mp hc
  refine (exec_response_at_host hm ⟨.okok, [checksum], []⟩).trans ?_
  simp only [hostTakeOk, hp, hs, if_neg rejected]

/-- Settles O53: `WRIT` answers the checksum of the chunk it received, which is another than that of the chunk sent. -/
theorem oneChangedByteIsAnIntegrityError : Obligations.OneChangedByteIsAnIntegrityError := by
  intro d h addr len a c b b' hb hw hm hp hs
  have received : (Instr.writ addr len (a ++ b' :: c)).wellFormed = true := by
    rw [← hw, writ_wellFormed_eq, writ_wellFormed_eq, List.length_append, List.length_append, List.length_cons, List.length_cons]
  exact ⟨_, _, exec_writ received d, rfl, exec_okok_of_wrongChecksum hm hp hs (crc32_ne_of_changed_byte a c hb)⟩

end Sys2Proof.Machine
end

section
/-! SUPPORT, and O9 to O12 and O23. The frame codec U4: what a decoder reads of a frame part by part, the round trips (R125),
that no command is the beginning of another (R126), and the fetch of a whole frame by the sequencer (R142 to R145). -/

namespace Sys2Proof.Machine

/-! ### The arguments of a frame -/

/-- R84, R102: `n` arguments stand at the front of a stream exactly as the bytes that `enc32` gives them. -/
theorem takeArgs_eq_some {n : Nat} {bs rest : List Byte} {ws : List Word} :
    takeArgs n bs = some (ws, rest) ↔ ws.length = n ∧ bs = ws.flatMap enc32 ++ rest := by
  constructor
  case mp =>
    intro h
    fun_induction takeArgs n bs generalizing ws rest with
    | case1 => cases h; exact ⟨rfl, rfl⟩
    | case2 n b0 b1 b2 b3 tail vs r taken ih =>
      cases h
      obtain ⟨len, split⟩ := ih taken
      refine ⟨congrArg (· + 1) len, ?_⟩
      rw [split, List.flatMap_cons, enc32_dec32]
      rfl
    | case3 | case4 => cases h
  case mpr =>
    rintro ⟨rfl, rfl⟩
    induction ws with
    | nil => rfl
    | cons w ws ih =>
      simp only [List.length_cons, List.flatMap_cons, enc32, List.cons_append, List.nil_append, takeArgs, ih, dec32_enc32]

/-- R143: READ_ARGS reads the arguments as the decoder does. -/
theorem argsOf_flatMap_enc32 (ws : List Word) : argsOf (ws.flatMap enc32) = ws := by
  induction ws with
  | nil => rfl
  | cons w ws ih => simp only [List.flatMap_cons, enc32, List.cons_append, List.nil_append, argsOf, ih, dec32_enc32]

/-! ### Commands -/

/-- The stages of `DEC_CMD` (R122), each with what it reads: the tag, the arguments, the payload. -/
theorem decodeCmd_eq_frame_iff_parts {bs rest : List Byte} {i : Instr} :
    decodeCmd bs = .frame i rest ↔ ∃ (op : Opcode) (args : List Word) (payload : List Byte),
      bs = op.tag.bytes ++ (args.flatMap enc32 ++ (payload ++ rest)) ∧ args.length = op.nargs
        ∧ payload.length = payloadLen op args ∧ buildInstr op args payload = some i := by
  constructor
  case mp =>
    fun_cases decodeCmd bs with
    | case1 | case2 | case3 | case4 | case5 => exact nofun
    | case6 t r1 htag op hop args r2 hargs payload r3 hpayload j built =>
      rintro ⟨⟩
      obtain ⟨argsLen, rfl⟩ := takeArgs_eq_some.mp hargs
      obtain ⟨rfl, len⟩ := takeBytes_eq_some.mp hpayload
      exact ⟨op, args, payload, by rw [takeTag_eq_some.mp htag, tag_of_opcodeOf hop], argsLen, len, built⟩
  case mpr =>
    rintro ⟨op, args, payload, rfl, argsLen, len, built⟩
    unfold decodeCmd
    simp only [takeTag_bytes, opcodeOf_tag, takeArgs_eq_some.mpr ⟨argsLen, rfl⟩, takeBytes_eq_some.mpr ⟨rfl, len⟩, built]

/-- R120: what the parts of a frame build is a well-formed command with these parts. -/
theorem parts_of_buildInstr {op : Opcode} {args : List Word} {payload : List Byte} {i : Instr}
    (hl : payload.length = payloadLen op args) (h : buildInstr op args payload = some i) :
    i.isCommand = true ∧ i.wellFormed = true ∧ i.tag = op.tag ∧ i.args = args ∧ i.payload = payload := by
  revert h
  fun_cases buildInstr op args payload with
  | case5 addr len payload =>
    rintro ⟨⟩
    exact ⟨rfl, by rw [writ_wellFormed_eq]; exact decide_eq_true hl, rfl, rfl, rfl⟩
  | case8 => exact nofun
  | _ =>
    rintro ⟨⟩
    exact ⟨rfl, rfl, rfl, rfl, (List.length_eq_zero_iff.mp hl).symm⟩

/-- R125 in both directions: what `DEC_CMD` answers with a frame is the bytes of a well-formed command, and whatever follows. -/
theorem decodeCmd_eq_frame {bs rest : List Byte} {i : Instr} :
    decodeCmd bs = .frame i rest ↔ i.isCommand = true ∧ i.wellFormed = true ∧ bs = i.bytes ++ rest := by
  rw [decodeCmd_eq_frame_iff_parts]
  constructor
  case mp =>
    rintro ⟨op, args, payload, rfl, -, hl, built⟩
    obtain ⟨command, wellFormed, htag, rfl, rfl⟩ := parts_of_buildInstr hl built
    exact ⟨command, wellFormed, by simp only [Instr.bytes, htag, List.append_assoc]⟩
  case mpr =>
    rintro ⟨command, wellFormed, rfl⟩
    obtain ⟨op, hop, htag, argsLen, built⟩ := buildInstr_of_isCommand command
    exact ⟨op, i.args, i.payload, by simp only [Instr.bytes, htag, List.append_assoc], argsLen,
      payload_length_of_wellFormed command wellFormed hop, built⟩

/-- Settles O9, by `decodeCmd_eq_frame` from right to left. -/
theorem commandDecodeInvertsEncode : Obligations.CommandDecodeInvertsEncode := fun i command wellFormed =>
  ⟨i.bytes, encode_of_wellFormed wellFormed, fun _ => decodeCmd_eq_frame.mpr ⟨command, wellFormed, rfl⟩⟩

/-- Settles O10, by `decodeCmd_eq_frame` from left to right. -/
theorem decodedFrameReencodesToItsBytes : Obligations.DecodedFrameReencodesToItsBytes := by
  intro bs rest i decoded
  obtain ⟨command, wellFormed, split⟩ := decodeCmd_eq_frame.mp decoded
  exact ⟨i.bytes, encode_of_wellFormed wellFormed, split.symm, command, wellFormed⟩

/-- Settles O12: the decoder reads both commands from the longer of the two encodings. -/
theorem encodedCommandsArePrefixFree : Obligations.EncodedCommandsArePrefixFree := by
  rintro i j p q iCommand jCommand encodesI encodesJ ⟨rest, rfl⟩
  obtain ⟨iWellFormed, rfl⟩ := encode_eq_some.mp encodesI
  obtain ⟨jWellFormed, same⟩ := encode_eq_some.mp encodesJ
  have readsI : decodeCmd (i.bytes ++ rest) = .frame i rest := decodeCmd_eq_frame.mpr ⟨iCommand, iWellFormed, rfl⟩
  have readsJ : decodeCmd (i.bytes ++ rest) = .frame j [] :=
    decodeCmd_eq_frame.mpr ⟨jCommand, jWellFormed, by rw [same, List.append_nil]⟩
  cases readsI.symm.trans readsJ
  rfl

/-! ### Responses -/

/-- R124: an `OKOK` response with as many arguments and payload bytes as the command announces, whatever follows it. -/
theorem decodeResp_okok {cmd : Instr} {rargs : List Word} {rdata : List Byte} (hargs : rargs.length = respArgCount cmd)
    (hdata : rdata.length = respPayloadLen cmd) (rest : List Byte) :
    decodeResp cmd (encodeResp ⟨.okok, rargs, rdata⟩ ++ rest) = .response ⟨.okok, rargs, rdata⟩ := by
  have bytes : encodeResp ⟨.okok, rargs, rdata⟩ ++ rest =
      Status.okok.tag.bytes ++ (rargs.flatMap enc32 ++ (rdata ++ rest)) := by
    simp only [encodeResp, Response.toInstr, Instr.bytes, Instr.tag, Instr.args, Instr.payload, List.append_assoc]
  unfold decodeResp
  simp only [bytes, takeTag_bytes, statusOf_tag, takeArgs_eq_some.mpr ⟨hargs, rfl⟩, takeBytes_eq_some.mpr ⟨rfl, hdata⟩]

/-- Settles O11: `ERR!` and `PICO` are their tags alone. -/
theorem responseDecodeInvertsEncode : Obligations.ResponseDecodeInvertsEncode := by
  rintro cmd ⟨status, rargs, rdata⟩ - (⟨rfl, hargs, hdata⟩ | ⟨other, rfl, rfl⟩)
  · simpa using decodeResp_okok hargs hdata []
  · cases status with
    | okok => exact absurd rfl other
    | err | pico => rfl

/-! ### The fetch of a frame -/

/-- R53: what stays unread behind bytes that are consumed. -/
theorem State.unread_of_append {s t : State} {bs rest : List Byte} (hu : s.unread = bs ++ rest) (hr : t.rx = s.rx)
    (hp : t.rxPos = s.rxPos + bs.length) : t.unread = rest := by
  rw [State.unread_advance hr hp, hu, List.drop_left]

/-- R142: READ_OPCODE on the tag of a command. -/
theorem stepReadOpcode_of_opcodeTag {s : State} {op : Opcode} {rest : List Byte} (hu : s.unread = op.tag.bytes ++ rest) :
    stepReadOpcode s = .next { s with rxPos := s.rxPos + 4, opcode := some op.tag, st := .readArgs } := by
  rw [stepReadOpcode_eq hu, opcodeOf_tag]

/-- R143: READ_ARGS on the arguments of the opcode held. -/
theorem stepReadArgs_eq {s : State} {op : Opcode} {ws : List Word} {rest : List Byte} (hop : s.opcode = some op.tag)
    (hn : ws.length = op.nargs) (hu : s.unread = ws.flatMap enc32 ++ rest) :
    stepReadArgs s = .next { s with rxPos := s.rxPos + 4 * op.nargs, arg := .write ws, st := .readData } := by
  have read := State.rxRead_append hu
  rw [flatMap_enc32_length, hn] at read
  unfold stepReadArgs
  simp only [State.heldOpcode_of_tag hop, read, argsOf_flatMap_enc32]

/-- R144: READ_DATA on the payload that the registers announce, which is empty for every opcode but `WRIT`. -/
theorem stepReadData_eq {s : State} {op : Opcode} {payload rest : List Byte} (hop : s.opcode = some op.tag)
    (hl : payload.length = if op.hasPayload then s.arg.read1.toNat else 0) (hu : s.unread = payload ++ rest) :
    stepReadData s = .next { s with rxPos := s.rxPos + payload.length, data := payload, st := .handle } := by
  unfold stepReadData
  rw [State.heldOpcode_of_tag hop]
  cases hp : op.hasPayload with
  | true =>
    simp only [hp, if_true] at hl
    simp only [hp, if_true, ← hl, State.rxRead_append hu]
  | false =>
    simp only [hp, Bool.false_eq_true, if_false] at hl
    obtain rfl := List.length_eq_zero_iff.mp hl
    simp only [hp, Bool.false_eq_true, if_false, List.length_nil, Nat.add_zero]

/-- R85, R90: the payload length read back from the registers that READ_ARGS wrote. -/
theorem payloadLen_eq_read1 {op : Opcode} {ws : List Word} (hn : ws.length = op.nargs) :
    payloadLen op ws = if op.hasPayload then (ArgRegs.write ws).read1.toNat else 0 := by
  cases op with
  | writ =>
    match ws, hn with
    | [_, _], _ => rfl
  | sync | info | read | eras | sealImage | gogo => rfl

/-- R145: a command loaded into the registers is the one that they hold. -/
theorem State.heldInstr_load {i : Instr} (hc : i.isCommand = true) (s : State) : (s.load i).heldInstr = .ok i := by
  obtain ⟨op, -, htag, argsLen, built⟩ := buildInstr_of_isCommand hc
  have readBack : (ArgRegs.write i.args).read op.nargs = i.args := by
    rw [← argsLen]
    exact ArgRegs.read_write i.args (argsLen.trans_le (nargs_le_three op))
  unfold State.heldInstr
  rw [State.heldOpcode_of_tag (op := op) (by rw [State.load_opcode, htag])]
  simp only [State.load_arg, State.load_data, readBack, built]

theorem State.popAgenda_of_nil {s : State} (h : s.agenda = []) : s.popAgenda = s := by
  unfold State.popAgenda
  rw [h, List.tail_nil, ← h]

theorem State.mover_of_nil {s : State} (h : s.agenda = []) : s.mover = .device := by rw [State.mover, h]; rfl

/-- With no moves to come, a step is one of the device side and no move is taken off. -/
theorem step_of_deviceStep {s t : State} (hs : s.agenda = []) (ht : t.agenda = []) (h : deviceStep s = .next t) :
    step s = .next t := by
  rw [step_device (State.mover_of_nil hs), h, mapNext_next, State.popAgenda_of_nil ht]

/-- A run of a machine whose first step is known. -/
theorem run_succ {M : Host.Core} {s t : M.State} (h : M.step s = .next t) (k : Nat) : M.run (k + 1) s = M.run k t := by
  rw [Host.Core.run, h]

/-- R142 to R144: three steps over the tag, the arguments and the payload of a command. -/
theorem core_run_fetch {s : State} {i : Instr} {rest : List Byte} (ha : s.agenda = []) (hst : s.st = .readOpcode)
    (hc : i.isCommand = true) (hw : i.wellFormed = true) (hu : s.unread = i.bytes ++ rest) :
    core.run 3 s = .next { s.load i with rxPos := s.rxPos + i.bytes.length } := by
  obtain ⟨op, hop, htag, argsLen, -⟩ := buildInstr_of_isCommand hc
  rw [Instr.bytes, ← htag, List.append_assoc, List.append_assoc] at hu
  let s1 : State := { s with rxPos := s.rxPos + 4, opcode := some op.tag, st := .readArgs }
  let s2 : State := { s1 with rxPos := s1.rxPos + 4 * op.nargs, arg := .write i.args, st := .readData }
  let s3 : State := { s2 with rxPos := s2.rxPos + i.payload.length, data := i.payload, st := .handle }
  have hu1 : s1.unread = i.args.flatMap enc32 ++ (i.payload ++ rest) := State.unread_of_append hu rfl rfl
  have hu2 : s2.unread = i.payload ++ rest :=
    State.unread_of_append hu1 rfl (by rw [flatMap_enc32_length, argsLen])
  have first : step s = .next s1 :=
    step_of_deviceStep ha ha (by rw [deviceStep, hst]; exact stepReadOpcode_of_opcodeTag hu)
  have second : step s1 = .next s2 := step_of_deviceStep ha ha (stepReadArgs_eq (s := s1) rfl argsLen hu1)
  have announced : i.payload.length = if op.hasPayload then s2.arg.read1.toNat else 0 :=
    (payload_length_of_wellFormed hc hw hop).trans (payloadLen_eq_read1 argsLen)
  have third : step s2 = .next s3 := step_of_deviceStep ha ha (stepReadData_eq (s := s2) rfl announced hu2)
  have consumed : s3.rxPos = s.rxPos + i.bytes.length := by
    rw [Instr.bytes_length, argsLen, ← Nat.add_assoc, ← Nat.add_assoc]
  rw [run_succ (M := core) first, run_succ (M := core) second, run_succ (M := core) third, ← consumed]
  show Host.Outcome.next s3 = .next { s.load i with rxPos := s3.rxPos }
  rw [State.load, ← htag]

/-- R145, R160: with no moves to come, HANDLE's step is the command in the registers. -/
theorem step_eq_exec {t : State} {i : Instr} (ha : t.agenda = []) (hst : t.st = .handle) (hi : t.heldInstr = .ok i)
    (hw : i.wellFormed = true) : step t = exec i t := by
  obtain ⟨u, run, effect⟩ := exec_command (State.heldInstr_isCommand hi).1 hw t
  rw [run]
  refine step_of_deviceStep ha (effect.frame.agenda.trans ha) ?_
  rw [deviceStep, hst]
  simp only [stepHandle, hi, run]

/-- Settles O23: the position in the stream is no register that HANDLE reads. -/
theorem fetchedFrameRunsItsCommand : Obligations.FetchedFrameRunsItsCommand := by
  intro s i bs rest ha hst hc encodes hu t
  obtain ⟨hw, rfl⟩ := encode_eq_some.mp encodes
  have held : t.heldInstr = .ok i := State.heldInstr_load hc s
  exact ⟨core_run_fetch ha hst hc hw hu, State.unread_of_append hu rfl rfl, step_eq_exec (t := t) ha rfl held hw⟩

end Sys2Proof.Machine
end

section
/-! SUPPORT, and O16 to O18: the Sync matcher of WAIT_SYNC byte by byte and over any input (R141), and READ_OPCODE (R142). -/

namespace Sys2Proof.Machine

/-- A device step that completes, with the move taken off. -/
theorem step_of_deviceStep_next {s t : State} (hm : s.mover = .device) (h : deviceStep s = .next t) :
    step s = .next t.popAgenda := by
  rw [step_device hm, h, mapNext_next]

/-! ### The states of the sequencer (R140) -/

theorem deviceStep_waitSync {s : State} (h : s.st = .waitSync) : deviceStep s = stepWaitSync s := by rw [deviceStep, h]

theorem deviceStep_readOpcode {s : State} (h : s.st = .readOpcode) : deviceStep s = stepReadOpcode s := by rw [deviceStep, h]

theorem deviceStep_readArgs {s : State} (h : s.st = .readArgs) : deviceStep s = stepReadArgs s := by rw [deviceStep, h]

theorem deviceStep_readData {s : State} (h : s.st = .readData) : deviceStep s = stepReadData s := by rw [deviceStep, h]

theorem deviceStep_handle {s : State} (h : s.st = .handle) : deviceStep s = stepHandle s := by rw [deviceStep, h]

theorem deviceStep_error {s : State} (h : s.st = .error) : deviceStep s = stepError s := by rw [deviceStep, h]

theorem deviceStep_ended {s : State} {why : EndReason} (h : s.st = .ended why) : deviceStep s = .next s := by rw [deviceStep, h]

/-! ### WAIT_SYNC on one byte -/

/-- R53: WAIT_SYNC consumes one byte and hands it to the matcher. -/
theorem stepWaitSync_eq {s : State} {b : Byte} {rest : List Byte} (hu : s.unread = b :: rest) :
    stepWaitSync s = .next (State.syncByte b { s with rxPos := s.rxPos + 1 }) := by
  have read : s.rxRead 1 = some ([b], { s with rxPos := s.rxPos + 1 }) := State.rxRead_append (bs := [b]) hu
  rw [stepWaitSync, read]

theorem syncTagByte_eq_getElem (i : Fin 4) : syncTagByte i = [0x53, 0x59, 0x4E, 0x43][i] := by
  revert i
  decide

/-- The four bytes of the Sync tag differ. -/
theorem syncTagByte_injective {i j : Fin 4} (h : syncTagByte i = syncTagByte j) : i = j := by
  revert i j
  decide

theorem State.syncByte_of_next {s : State} {b : Byte} (hb : b = syncTagByte s.syncIdx) (hi : s.syncIdx ≠ 3) :
    s.syncByte b = { s with syncIdx := s.syncIdx + 1 } := by
  rw [State.syncByte, if_pos hb, if_neg hi]

theorem State.syncByte_of_last {s : State} {b : Byte} (hi : s.syncIdx = 3) (hb : b = syncTagByte 3) :
    s.syncByte b = s.acceptSync := by
  rw [State.syncByte, if_pos (by rw [hi, hb]), if_pos hi]

/-- Where a match begins again with the byte that broke it (decision D4). -/
def syncRestart (b : Byte) : Fin 4 := if b = 0x53 then 1 else 0

theorem State.syncByte_of_other {s : State} {b : Byte} (hb : b ≠ syncTagByte s.syncIdx) :
    s.syncByte b = { s with syncIdx := syncRestart b } := by
  rw [State.syncByte, if_neg hb, syncRestart, show syncTagByte 0 = 0x53 from rfl]
  split <;> rfl

/-- Settles O16, by what the byte is to the matcher. -/
theorem waitSyncMatchesByteByByte : Obligations.WaitSyncMatchesByteByByte := by
  intro s b rest hm hst hu s1
  have run {u : State} (h : State.syncByte b { s with rxPos := s.rxPos + 1 } = u) : step s = .next u.popAgenda :=
    step_of_deviceStep_next hm (by rw [deviceStep_waitSync hst, stepWaitSync_eq hu, h])
  refine ⟨?next, ?last, ?other⟩
  case next =>
    rintro i rfl hb hi
    rw [← syncTagByte_eq_getElem] at hb
    exact run (State.syncByte_of_next hb hi)
  case last =>
    intro hi hb
    exact run (State.syncByte_of_last hi hb)
  case other =>
    rintro i rfl hb
    rw [← syncTagByte_eq_getElem] at hb
    exact run (State.syncByte_of_other hb)

/-! ### WAIT_SYNC over any input -/

/-- R25: of the proper beginnings of the Sync tag, `p` ends with the empty one and with that of length `k`, and with no other:
the bytes of the tag differ, so two matches cannot be in progress at once. -/
def SyncMatched (k : Fin 4) (p : List Byte) : Prop := ∀ j : Fin 4, Opcode.sync.tag.bytes.take j <:+ p ↔ j = 0 ∨ j = k

theorem syncMatched_nil : SyncMatched 0 [] := by
  intro j
  rw [List.suffix_nil]
  revert j
  decide

/-- One byte more of the tag at the end is that byte after the ones before it. -/
theorem syncTag_take_succ_suffix_concat (j : Fin 4) (p : List Byte) (b : Byte) :
    Opcode.sync.tag.bytes.take (j + 1) <:+ p ++ [b] ↔ Opcode.sync.tag.bytes.take j <:+ p ∧ b = syncTagByte j := by
  have split : ∀ j : Fin 4, Opcode.sync.tag.bytes.take (j + 1) = Opcode.sync.tag.bytes.take j ++ [syncTagByte j] := by decide
  rw [split, List.suffix_append_inj_of_length_eq (s₁ := [syncTagByte j]) (s₂ := [b]) rfl, List.singleton_inj, eq_comm (a := b)]

namespace SyncMatched

variable {k : Fin 4} {p : List Byte} {b : Byte}

theorem take_succ_suffix_concat (h : SyncMatched k p) (j : Fin 4) :
    Opcode.sync.tag.bytes.take (j + 1) <:+ p ++ [b] ↔ (j = 0 ∨ j = k) ∧ b = syncTagByte j := by
  rw [syncTag_take_succ_suffix_concat, h j]

/-- The whole tag is at the end exactly where its last byte meets a match of three. -/
theorem tag_suffix_concat (h : SyncMatched k p) : Opcode.sync.tag.bytes <:+ p ++ [b] ↔ k = 3 ∧ b = syncTagByte 3 := by
  rw [show Opcode.sync.tag.bytes = Opcode.sync.tag.bytes.take ((3 : Fin 4) + 1) from rfl, h.take_succ_suffix_concat]
  simp [eq_comm]

/-- To match after one byte more, it is enough to tell which of the longer beginnings it ends. -/
theorem concat {k' : Fin 4} (h : SyncMatched k p)
    (longer : ∀ i : Fin 3, (i.castSucc = 0 ∨ i.castSucc = k) ∧ b = syncTagByte i.castSucc ↔ i.succ = k') :
    SyncMatched k' (p ++ [b]) := by
  intro j
  cases j using Fin.cases with
  | zero => simp
  | succ i =>
    rw [show (i.succ : Nat) = i.castSucc + 1 from rfl, h.take_succ_suffix_concat, longer i]
    simp

theorem next (h : SyncMatched k p) (hb : b = syncTagByte k) (hk : k ≠ 3) : SyncMatched (k + 1) (p ++ [b]) := by
  have shift : ∀ (k : Fin 4) (i : Fin 3), k ≠ 3 → (i.castSucc = k ↔ i.succ = k + 1) := by decide
  refine h.concat fun i => ?_
  rw [← shift k i hk, hb]
  exact ⟨fun e => (syncTagByte_injective e.2).symm, fun e => ⟨.inr e, by rw [e]⟩⟩

theorem other (h : SyncMatched k p) (hb : b ≠ syncTagByte k) : SyncMatched (syncRestart b) (p ++ [b]) := by
  have first : ∀ i : Fin 3, (i.castSucc = 0 ↔ i.succ = 1) ∧ i.succ ≠ 0 := by decide
  refine h.concat fun i => ?_
  have begins : (i.castSucc = 0 ∨ i.castSucc = k) ∧ b = syncTagByte i.castSucc ↔ i.castSucc = 0 ∧ b = 0x53 := by
    constructor
    · rintro ⟨e | e, hi⟩
      · exact ⟨e, by rw [hi, e]; rfl⟩
      · exact absurd (e ▸ hi) hb
    · rintro ⟨e, rfl⟩
      exact ⟨.inl e, by rw [e]; rfl⟩
  rw [begins, syncRestart]
  split
  case isTrue hs => rw [(first i).1, and_iff_left hs]
  case isFalse hs => exact ⟨fun e => absurd e.2 hs, fun e => absurd e (first i).2⟩

end SyncMatched

/-- One step of the hunt: the byte completes the tag and is acknowledged, or the match after it is the one it leaves. -/
theorem step_of_syncMatched {s : State} {p rest : List Byte} {b : Byte} (ha : s.agenda = []) (hst : s.st = .waitSync)
    (hmatch : SyncMatched s.syncIdx p) (hu : s.unread = b :: rest) :
    (Opcode.sync.tag.bytes <:+ p ++ [b] ∧ step s = .next ({ s with rxPos := s.rxPos + 1 } : State).acceptSync)
    ∨ (¬Opcode.sync.tag.bytes <:+ p ++ [b] ∧ ∃ k, SyncMatched k (p ++ [b])
        ∧ step s = .next { s with rxPos := s.rxPos + 1, syncIdx := k }) := by
  let s1 : State := { s with rxPos := s.rxPos + 1 }
  have run {t : State} (ht : t.agenda = []) (h : s1.syncByte b = t) : step s = .next t :=
    step_of_deviceStep ha ht (by rw [deviceStep_waitSync hst, stepWaitSync_eq hu, ← h])
  rw [hmatch.tag_suffix_concat]
  by_cases hb : b = syncTagByte s.syncIdx
  · by_cases hi : s.syncIdx = 3
    · have last : b = syncTagByte 3 := hi ▸ hb
      exact .inl ⟨⟨hi, last⟩, run (t := s1.acceptSync) ha (State.syncByte_of_last (s := s1) hi last)⟩
    · exact .inr ⟨fun e => hi e.1, _, hmatch.next hb hi, run ha (State.syncByte_of_next (s := s1) hb hi)⟩
  · exact .inr ⟨fun e => hb (e.1 ▸ e.2), _, hmatch.other hb, run ha (State.syncByte_of_other (s := s1) hb)⟩

/-- R141, after the bytes `p`: over the bytes that are unread, up to the first that completes the tag. -/
theorem core_run_hunt {s : State} {p bs : List Byte} (ha : s.agenda = []) (hst : s.st = .waitSync)
    (hmatch : SyncMatched s.syncIdx p) (hp : ¬Opcode.sync.tag.bytes <:+ p) (hu : s.unread = bs)
    (first : ∀ q, q <+: bs → q ≠ bs → ¬Opcode.sync.tag.bytes <:+ p ++ q) :
    ∃ t, core.run bs.length s = .next t ∧ t.rxPos = s.rxPos + bs.length ∧ t.flash = s.flash
      ∧ (if Opcode.sync.tag.bytes <:+ p ++ bs
         then t.st = .readOpcode ∧ t.hasSynced = true ∧ t.tx = s.tx ++ Status.pico.tag.bytes
         else t.st = .waitSync ∧ t.tx = s.tx) := by
  induction bs generalizing s p with
  | nil => exact ⟨s, rfl, rfl, rfl, by rw [List.append_nil, if_neg hp]; exact ⟨hst, rfl⟩⟩
  | cons b bs ih =>
    obtain ⟨complete, run⟩ | ⟨incomplete, k, matched, run⟩ := step_of_syncMatched ha hst hmatch hu
    · have last : bs = [] := by
        by_contra more
        exact first [b] (by simp) (by simpa [eq_comm] using more) complete
      subst last
      exact ⟨_, run_succ (M := core) run 0, rfl, rfl, by rw [if_pos complete]; exact ⟨rfl, rfl, rfl⟩⟩
    · obtain ⟨t, runs, rxPos, flash, answer⟩ := ih (s := { s with rxPos := s.rxPos + 1, syncIdx := k }) ha hst matched incomplete
        (State.unread_of_append (bs := [b]) hu rfl rfl) fun q hq hne => by
          rw [List.append_assoc]
          exact first (b :: q) (by simpa using hq) (by simpa using hne)
      refine ⟨t, (run_succ (M := core) run _).trans runs, ?_, flash, by simpa using answer⟩
      rw [rxPos, List.length_cons, Nat.add_assoc, Nat.add_comm 1]

/-- Settles O17: nothing has been received before the bytes. -/
theorem syncAcknowledgedAtFirstFullTag : Obligations.SyncAcknowledgedAtFirstFullTag := by
  intro s bs ha hst hi hu first
  exact core_run_hunt (p := []) ha hst (by rw [hi]; exact syncMatched_nil) (by decide) hu first

/-! ### READ_OPCODE -/

/-- R142, R92: the tag of no opcode, a status tag among them, takes the error. -/
theorem stepReadOpcode_of_unknownTag {s : State} {t : Tag} {rest : List Byte} (hm : s.mover ≠ .host)
    (ht : ∀ op : Opcode, op.tag ≠ t) (hu : s.unread = t.bytes ++ rest) :
    stepReadOpcode s = .next ({ s with rxPos := s.rxPos + 4, opcode := some t } : State).raise := by
  rw [stepReadOpcode_eq hu, opcodeOf_eq_none ht]
  dsimp only
  split
  · exact exec_status_at_device (s := { s with rxPos := s.rxPos + 4, opcode := some t }) hm _
  · rfl

/-- Settles O18. -/
theorem readOpcodeLooksUpTag : Obligations.ReadOpcodeLooksUpTag := by
  intro s t rest hm hst hu s1
  have run {u : State} (h : stepReadOpcode s = .next u) : step s = .next u.popAgenda :=
    step_of_deviceStep_next hm (by rw [deviceStep_readOpcode hst, h])
  constructor
  · rintro ⟨op, rfl⟩
    exact run (stepReadOpcode_of_opcodeTag hu)
  · intro ht
    exact run (stepReadOpcode_of_unknownTag (by rw [hm]; exact nofun) ht hu)

end Sys2Proof.Machine
end

section
/-! SUPPORT, and O19 to O22, O25 and O26: READ_ARGS, READ_DATA, HANDLE, ERROR and END (R143 to R147), and a read that waits
(R148). -/

namespace Sys2Proof.Machine

/-! ### READ_ARGS and READ_DATA -/

/-- Settles O19. -/
theorem readArgsTakesLittleEndianArguments : Obligations.ReadArgsTakesLittleEndianArguments := by
  intro s op ws rest hm hst hop hn hu
  exact step_of_deviceStep_next hm ((deviceStep_readArgs hst).trans (stepReadArgs_eq hop hn hu))

theorem ArgRegs.read1_of_a1 {g : ArgRegs} {n : Word} (h : g.a1 = some n) : g.read1 = n := by rw [ArgRegs.read1, h, Option.getD_some]

/-- R85: only `WRIT` carries a payload. -/
theorem Opcode.hasPayload_of_ne_writ {op : Opcode} (h : op ≠ .writ) : op.hasPayload = false := by
  cases op with
  | writ => exact absurd rfl h
  | sync | info | read | eras | sealImage | gogo => rfl

/-- Settles O20: the first `arg[1]` of the unread bytes are the payload that the registers announce. -/
theorem readDataTakesExactlyArg1Bytes : Obligations.ReadDataTakesExactlyArg1Bytes := by
  intro s hm hst
  refine ⟨fun n hop hn hl => ?_, fun op hop hne => ?_⟩
  · have announced : (s.unread.take n.toNat).length = n.toNat := List.length_take_of_le hl
    have run := stepReadData_eq hop (announced.trans (by rw [ArgRegs.read1_of_a1 hn]; rfl))
      (List.take_append_drop n.toNat s.unread).symm
    rw [announced] at run
    exact step_of_deviceStep_next hm ((deviceStep_readData hst).trans run)
  · have run := stepReadData_eq (payload := []) hop (by rw [Opcode.hasPayload_of_ne_writ hne]; rfl) (List.nil_append _).symm
    exact step_of_deviceStep_next hm ((deviceStep_readData hst).trans run)

/-! ### A read that waits (R148) -/

theorem State.waiting_iff {s : State} : s.waiting = true ↔ ∃ n, s.wants = some n ∧ s.unread.length < n := by
  unfold State.waiting
  cases s.wants <;> simp

/-- What each of the reading states wants (R141 to R144). -/
theorem State.wants_waitSync {s : State} (h : s.st = .waitSync) : s.wants = some 1 := by rw [State.wants, h]

theorem State.wants_readOpcode {s : State} (h : s.st = .readOpcode) : s.wants = some 4 := by rw [State.wants, h]

theorem State.wants_readArgs {s : State} {op : Opcode} (h : s.st = .readArgs) (hop : s.opcode = some op.tag) :
    s.wants = some (4 * op.nargs) := by
  unfold State.wants
  rw [h, State.heldOpcode_of_tag hop]

theorem State.wants_readData {s : State} {n : Word} (h : s.st = .readData) (hop : s.opcode = some Opcode.writ.tag)
    (hn : s.arg.a1 = some n) : s.wants = some n.toNat := by
  unfold State.wants
  rw [h, State.heldOpcode_of_tag hop, ArgRegs.read1_of_a1 hn]
  rfl

/-- R148: a read that finds fewer bytes than it wants consumes none of them. -/
theorem deviceStep_of_waiting {s : State} (h : s.waiting = true) : deviceStep s = .next s := by
  obtain ⟨n, wants, short⟩ := State.waiting_iff.mp h
  have read : s.rxRead n = none := State.rxRead_eq_none.mpr short
  unfold State.wants at wants
  split at wants
  case h_1 hst =>
    cases wants
    rw [deviceStep_waitSync hst, stepWaitSync, read]
  case h_2 hst =>
    cases wants
    rw [deviceStep_readOpcode hst, stepReadOpcode, read]
  case h_3 hst =>
    split at wants <;> cases wants
    rename_i op hop
    rw [deviceStep_readArgs hst, stepReadArgs, hop]
    dsimp only
    rw [read]
  case h_4 hst =>
    split at wants
    · rename_i op hop
      rw [deviceStep_readData hst, stepReadData, hop]
      dsimp only
      split at wants <;> cases wants
      · rename_i hp; rw [if_pos hp, read]
      · exact absurd short (Nat.not_lt_zero _)
    · cases wants
  all_goals cases wants

/-- Settles O21: in each of the four cases the device waits. -/
theorem readHoldsUntilItsBytesArrive : Obligations.ReadHoldsUntilItsBytesArrive := by
  intro s hm short
  refine step_of_deviceStep_next hm (deviceStep_of_waiting (State.waiting_iff.mpr ?_))
  obtain ⟨hst, short⟩ | ⟨hst, short⟩ | ⟨op, hst, hop, short⟩ | ⟨n, hst, hop, hn, short⟩ := short
  · exact ⟨_, State.wants_waitSync hst, short⟩
  · exact ⟨_, State.wants_readOpcode hst, short⟩
  · exact ⟨_, State.wants_readArgs hst hop, short⟩
  · exact ⟨_, State.wants_readData hst hop hn, short⟩

/-! ### HANDLE, ERROR and END -/

/-- Settles O22. -/
theorem handleStepRunsHeldInstruction : Obligations.HandleStepRunsHeldInstruction := by
  refine ⟨fun s i hm hst held => ?_, fun s i command _ => State.heldInstr_load command s⟩
  rw [step_device hm, deviceStep_handle hst, stepHandle, held]

/-- Settles O25. -/
theorem errorStateReportsAndResets : Obligations.ErrorStateReportsAndResets := by
  intro s hm hst queued
  refine step_of_deviceStep_next (t := (s.txWrite Status.err.tag.bytes).sessionReset) hm ?_
  rw [deviceStep_error hst, stepError, queued, queuedBytes]

/-- Settles O26. -/
theorem endedSessionStays : Obligations.EndedSessionStays := fun _ _ hm hst =>
  step_of_deviceStep_next hm (deviceStep_ended hst)

end Sys2Proof.Machine
end

section
/-! SUPPORT, and O27. Every step makes a transition that the table of R140 lists, or none. -/

namespace Sys2Proof.Machine

theorem State.completesSync_iff {s : State} :
    s.completesSync = true ↔ s.st = .waitSync ∧ s.syncIdx = 3 ∧ s.unread.head? = some (syncTagByte 3) := by
  simp only [State.completesSync, Bool.and_eq_true, decide_eq_true_eq, and_assoc]

/-- R141: the first two rows of the table, told apart by whether the byte completes the tag. -/
theorem State.deviceTransition_syncByte {s : State} {b : Byte} (hst : s.st = .waitSync) (hb : s.unread.head? = some b) :
    s.DeviceTransition (State.syncByte b { s with rxPos := s.rxPos + 1 }) := by
  have unread : s.unread ≠ [] := fun e => by rw [e] at hb; cases hb
  cases complete : s.completesSync with
  | true =>
    obtain ⟨-, hi, last⟩ := State.completesSync_iff.mp complete
    rw [State.syncByte_of_last (s := { s with rxPos := s.rxPos + 1 }) hi (Option.some.inj (hb.symm.trans last))]
    exact .inr (.inl ⟨hst, complete, rfl, rfl, rfl⟩)
  | false =>
    obtain ⟨k, he⟩ | ⟨last, hi, -⟩ := State.syncByte_cases b { s with rxPos := s.rxPos + 1 }
    · rw [he]
      exact .inl ⟨hst, unread, complete, hst, rfl, (List.append_nil _).symm⟩
    · have := State.completesSync_iff.mpr ⟨hst, hi, last ▸ hb⟩
      rw [complete] at this
      cases this

/-- R144: what READ_ARGS has written to `arg[1]` is there to be read. -/
theorem ArgRegs.a1_of_holds {g : ArgRegs} {n : Nat} (h : g.holds n = true) (hn : 2 ≤ n) : g.a1 = some g.read1 := by
  obtain ⟨m, rfl⟩ := Nat.exists_eq_add_of_le' hn
  cases ha : g.a1 with
  | none => simp [ArgRegs.holds, ha] at h
  | some w => rw [ArgRegs.read1_of_a1 ha]

/-- R145: the rows of HANDLE, told apart by whether the command is `GOGO`. -/
theorem CommandEffect.deviceTransition {i : Instr} {op : Opcode} {s t : State} (effect : CommandEffect i s t) (hst : s.st = .handle)
    (hop : i.opcode = some op) (held : s.opcode = some op.tag) : s.DeviceTransition t := by
  obtain ⟨frame, st, ⟨r, success, tx, go⟩, -, -⟩ := effect
  by_cases hgo : op = .gogo
  · subst hgo
    rw [go hop] at tx
    exact .inr (.inr (.inr (.inr (.inr (.inr (.inr (.inr (.inl ⟨hst, held, by rw [st, if_pos hop], frame.rxPos, tx⟩))))))))
  · have other : i.opcode ≠ some .gogo := by rw [hop]; simpa using hgo
    exact .inr (.inr (.inr (.inr (.inr (.inr (.inr (.inl
      ⟨op, r, hst, held, hgo, success, by rw [st, if_neg other], frame.rxPos, tx⟩)))))))

/-- R140: what a step of the device side comes to is a row of the table, or the device waits or has ended. -/
theorem State.SessionInv.deviceTransition {s t : State} (hs : s.SessionInv) (hm : s.mover ≠ .host) (h : deviceStep s = .next t) :
    s.DeviceTransition t ∨ (s.waiting = true ∨ ∃ why, s.st = .ended why) ∧ t = s := by
  obtain ⟨rfl, stays⟩ | ⟨b, hst, hb, rfl⟩ | ⟨tag, op, hst, ht, hop, rfl⟩ | ⟨tag, hst, ht, hop, rfl⟩ | ⟨op, hst, hop, -, rfl⟩
    | ⟨hst, hop, -, rfl⟩ | ⟨op, hst, hop, hne, rfl⟩ | ⟨i, hst, held, run⟩ | ⟨hst, rfl⟩ := deviceStep_cases hm h
  case inl => exact .inr ⟨stays, rfl⟩
  all_goals refine .inl ?_
  · exact State.deviceTransition_syncByte hst hb
  · exact .inr (.inr (.inl ⟨hst, ⟨tag, op, ht, hop⟩, rfl, rfl, (List.append_nil _).symm⟩))
  · exact .inr (.inr (.inr (.inl ⟨hst, ⟨tag, ht, hop⟩, rfl, rfl, (List.append_nil _).symm⟩)))
  · obtain ⟨_, tag⟩ := (State.registersOk_readArgs hst).mp hs.registers
    exact .inr (.inr (.inr (.inr (.inl
      ⟨op, hst, State.opcode_of_heldOpcode tag hop, rfl, rfl, (List.append_nil _).symm⟩))))
  · obtain ⟨op, tag, holds⟩ := (State.registersOk_readData hst).mp hs.registers
    cases (State.heldOpcode_of_tag tag).symm.trans hop
    exact .inr (.inr (.inr (.inr (.inr (.inl
      ⟨_, hst, tag, ArgRegs.a1_of_holds holds le_rfl, rfl, rfl, (List.append_nil _).symm⟩)))))
  · obtain ⟨_, tag, -⟩ := (State.registersOk_readData hst).mp hs.registers
    exact .inr (.inr (.inr (.inr (.inr (.inr (.inl
      ⟨op, hst, State.opcode_of_heldOpcode tag hop, hne, rfl, rfl, (List.append_nil _).symm⟩))))))
  · obtain ⟨_, tag, -⟩ := (State.registersOk_handle hst).mp hs.registers
    obtain ⟨command, op, hop, heldOp⟩ := State.heldInstr_isCommand held
    exact (commandEffect_of_exec command run).deviceTransition hst hop (State.opcode_of_heldOpcode tag heldOp)
  · have queued : s.errQueued = some .err := by rw [hs.queued, if_pos hst]
    rw [queued]
    exact .inr (.inr (.inr (.inr (.inr (.inr (.inr (.inr (.inr ⟨hst, rfl, rfl, rfl⟩))))))))

/-- R149: a Transport failure writes nothing, and leaves the sequencer where it is or ends the session. -/
theorem deviceFail_transition (s : State) : (deviceFail s).tx = s.tx
    ∧ ((deviceFail s).st = s.st ∨ (deviceFail s).st = .ended .byTransport ∧ ∀ why, s.st ≠ .ended why) := by
  obtain same | ⟨live, ends | ⟨-, ends⟩⟩ := deviceFail_cases s
  · rw [same]; exact ⟨rfl, .inl rfl⟩
  · rw [ends]; exact ⟨rfl, .inr ⟨rfl, live⟩⟩
  · rw [ends]; exact ⟨rfl, .inr ⟨rfl, live⟩⟩

/-- Every agent but the device side, a failure there and a session creation leaves the sequencer where it is. -/
theorem step_keeps_st {s t : State} (hd : s.mover ≠ .device) (hf : s.mover ≠ .failDevice) (hn : ∀ p, s.mover ≠ .newSession p)
    (h : step s = .next t) : t.st = s.st := by
  obtain ⟨hm, -⟩ | ⟨-, u, -, rfl⟩ | ⟨n, -, rfl⟩ | ⟨n, -, rfl⟩ | ⟨bs, -, rfl⟩ | ⟨n, bs, -, rfl⟩ | ⟨hm, -⟩
    | ⟨n, -, rfl⟩ | ⟨p, hp, -⟩ | ⟨image, n, -, rfl⟩ := step_cases h
  · exact absurd hm hd
  · rfl
  · rfl
  · rfl
  · rfl
  · rfl
  · exact absurd hm hf
  · rfl
  · exact absurd hp (hn p)
  · exact s.newFlashing_st image n

/-- Settles O27: taking the move off the agenda changes nothing that the table reads. -/
theorem onlyListedTransitionsAreTaken : Obligations.OnlyListedTransitionsAreTaken := by
  intro s t hs h
  refine ⟨fun hm => ?_, fun hm => ?_, fun hd hf hn => step_keeps_st hd hf hn h⟩
  · rw [step_device hm, mapNext_eq_next] at h
    obtain ⟨u, hu, rfl⟩ := h
    obtain taken | ⟨stays, rfl⟩ := hs.deviceTransition (by rw [hm]; exact nofun) hu
    · exact .inl taken
    · exact .inr ⟨stays, rfl⟩
  · rw [step_eq, hm] at h
    cases h
    exact deviceFail_transition s

end Sys2Proof.Machine
end

section
/-! SUPPORT, and O28. A Transport failure: what it meets at the device side (R149), and what it does to the host (R195). -/

namespace Sys2Proof.Machine

/-! ### The device side -/

theorem step_failDevice {s : State} (hm : s.mover = .failDevice) : step s = .next (deviceFail s).popAgenda := by
  rw [step_eq, hm]
  rfl

/-- A byte that completes the tag is there to be read. -/
theorem State.not_waiting_of_completesSync {s : State} (h : s.completesSync = true) : s.waiting = false := by
  obtain ⟨hst, -, last⟩ := State.completesSync_iff.mp h
  have unread : s.unread ≠ [] := fun e => by rw [e] at last; cases last
  simpa [State.waiting, State.wants_waitSync hst] using unread

theorem State.completesSync_of_st {s : State} (h : s.st ≠ .waitSync) : s.completesSync = false := by
  simp [State.completesSync, h]

/-- R149: the failure meets a read that waits, or the write of HANDLE or of ERROR. -/
theorem deviceFail_eq_endByTransport {s : State} (h : s.waiting = true ∨ s.st = .handle ∨ s.st = .error) :
    deviceFail s = s.endByTransport := by
  unfold deviceFail
  by_cases waits : s.waiting = true
  · rw [if_pos waits]
  · obtain hst | hst := h.resolve_left waits <;>
      simp [waits, hst, State.completesSync_of_st (s := s) (by rw [hst]; exact nofun)]

/-- R149: the failure meets the write of `PICO`. -/
theorem deviceFail_of_completesSync {s : State} (h : s.completesSync = true) :
    deviceFail s = { s.endByTransport with rxPos := s.rxPos + 1 } := by
  simp [deviceFail, State.not_waiting_of_completesSync h, h]

/-- R206: the failure meets neither a read nor a write. -/
theorem deviceFail_eq_self {s : State} (hw : s.waiting = false) (hc : s.completesSync = false) (hh : s.st ≠ .handle)
    (he : s.st ≠ .error) : deviceFail s = s := by
  simp [deviceFail, hw, hc, hh, he]

/-! ### The host -/

theorem step_failHost {s : State} {k : Nat} (hm : s.mover = .failHost k) : step s = .next (hostFail k s).popAgenda := by
  rw [step_eq, hm]
  rfl

theorem hostFail_of_running {s : State} {now : HStep} (hp : s.host.progress = .running now) (k : Nat) :
    hostFail k s = s.withHost (s.host.failIn now k) := by
  rw [hostFail, hp]

theorem hostFail_of_over {s : State} (h : s.host.over = true) (k : Nat) : hostFail k s = s := by
  unfold hostFail
  split
  case h_3 hp => rw [HostSide.over, hp] at h; cases h
  all_goals rfl

/-- A read that waits fails (R195). -/
theorem HostSide.failIn_of_reading {h : HostSide} {now : HStep} {cmd : Instr} (hr : h.reading now = true) (hs : h.sent = some cmd)
    (short : h.unread.length < h.respLen cmd) (k : Nat) : h.failIn now k = h.failRead now k := by
  rw [HostSide.failIn, if_pos hr, hs]
  exact if_pos short

/-- The write of the next command fails (R195). -/
theorem HostSide.failIn_of_sending {h h1 : HostSide} {now st : HStep} {cmd : Instr} {bs : List Byte} (hr : h.reading now = false)
    (hn : h.next now = .send h1 st cmd) (he : encode cmd = some bs) (k : Nat) : h.failIn now k = h1.failWrite st bs k := by
  rw [HostSide.failIn, hr, hn]
  dsimp only
  rw [he]
  rfl

theorem HostSide.reading_of_send {h : HostSide} {now : HStep} (hp : h.phase = .send) : h.reading now = false := by
  cases hr : h.reading now with
  | false => rfl
  | true => cases hp.symm.trans (HostSide.reading_eq_true hr)

/-- With fewer than four bytes there no status has been read, and `k` of them are consumed (X15). -/
theorem HostSide.statusRead_of_short {h : HostSide} (short : h.unread.length < 4) : h.statusRead = 0 :=
  if_neg (Nat.not_le.mpr short)

/-- R182: `SYNC` awaits the four status bytes, whatever they are. -/
theorem HostSide.respLen_sync (h : HostSide) : h.respLen .sync = 4 := by
  unfold HostSide.respLen
  split <;> rfl

/-- R182: a failed read of Sync is a failed attempt. -/
theorem HostSide.failRead_sync {h : HostSide} (short : h.unread.length < 4) (k : Nat) :
    h.failRead .sync k = (h.advance (min k h.unread.length)).attemptFailed := by
  simp only [HostSide.failRead, HostSide.statusRead_of_short short, Nat.zero_add, Nat.sub_zero]

/-- R195: a failed read of every other step ends the run. -/
theorem HostSide.failRead_of_ne_sync {step : HStep} (hs : step ≠ .sync) (h : HostSide) (k : Nat) :
    h.failRead step k = (h.advance (h.statusRead + min k (h.unread.length - h.statusRead))).fail (.transportError step) := by
  cases step with
  | sync => exact absurd rfl hs
  | info | pad | bounds | erase | write | sealImage | go => rfl

/-- R195, R189: a failed write ends the run, in Go as `DONE`. -/
theorem HostSide.failWrite_eq (h : HostSide) (step : HStep) (bs : List Byte) (k : Nat) :
    h.failWrite step bs k =
      { h with tx := h.tx ++ bs.take k, progress := if step = .go then .done else .failed (.transportError step) } := by
  cases step <;> rfl

/-- The steps in which the host awaits an `OKOK` (R190). -/
theorem HostSide.reading_of_awaiting {h : HostSide} {st : HStep} (hst : st = .info ∨ st = .erase ∨ st = .write ∨ st = .sealImage)
    (hp : h.phase = .response) : h.reading st = true ∧ st ≠ .sync := by
  obtain rfl | rfl | rfl | rfl := hst <;> exact ⟨decide_eq_true hp, nofun⟩

/-- R149, R206: a Transport failure at the device side, by what it meets. -/
theorem step_of_deviceFailure {s : State} (hm : s.mover = .failDevice) :
    (s.waiting = true ∨ s.st = .handle ∨ s.st = .error → step s = .next s.endByTransport.popAgenda)
    ∧ (s.completesSync = true → step s = .next ({ s.endByTransport with rxPos := s.rxPos + 1 } : State).popAgenda)
    ∧ (s.waiting = false → s.completesSync = false → s.st ≠ .handle → s.st ≠ .error → step s = .next s.popAgenda) := by
  rw [step_failDevice hm]
  refine ⟨fun meets => ?_, fun complete => ?_, fun hw hc hh he => ?_⟩
  · rw [deviceFail_eq_endByTransport meets]
  · rw [deviceFail_of_completesSync complete]
  · rw [deviceFail_eq_self hw hc hh he]

/-- Settles O28: the device side by `step_of_deviceFailure`, the host by the read or the write that the failure meets. -/
theorem transportFailureEndsSession : Obligations.TransportFailureEndsSession := by
  refine ⟨fun s hm => step_of_deviceFailure hm, fun s k hm => ?_⟩
  rw [step_failHost hm]
  refine ⟨fun hp hph hs short => ?sync, fun st cmd hp hst hph hs short => ?awaiting,
    fun now st h cmd bs hp hph hn he => ?sending, fun ended => ?ended⟩
  case sync =>
    rw [hostFail_of_running hp, HostSide.failIn_of_reading (now := .sync) (decide_eq_true hph) hs
      (by rwa [HostSide.respLen_sync]), HostSide.failRead_sync short]
    rfl
  case awaiting =>
    obtain ⟨reads, notSync⟩ := HostSide.reading_of_awaiting hst hph
    refine ⟨_, s.host.failRead_consumes k, fun few => ?_, ?_⟩
    · rw [HostSide.statusRead_of_short few, Nat.zero_add, Nat.sub_zero]
    · rw [hostFail_of_running hp, HostSide.failIn_of_reading reads hs short, HostSide.failRead_of_ne_sync notSync]
      rfl
  case sending =>
    rw [hostFail_of_running hp, HostSide.failIn_of_sending (HostSide.reading_of_send hph) hn he, HostSide.failWrite_eq]
    rfl
  case ended =>
    rw [hostFail_of_over ended]
    rfl

end Sys2Proof.Machine
end

section
/-! SUPPORT, O29 to O35. What each command answers and leaves (R161 to R167): the five that only answer, by one lemma on
`complete`; `ERAS` and `WRIT`, which also change the flash, from their equations and the laws of the clipped store. -/

namespace Sys2Proof.Machine

/-! ### The shape of an answer -/

/-- R160: an answer that puts new values in the fields a command may change keeps all the others. -/
theorem State.commandFrame_answer (s : State) (resp : RespRegs) (acc : Word) (flash : Flash) (tx : List Byte) (st : SeqState) :
    s.CommandFrame { s with resp := resp, crcAcc := acc, flash := flash, tx := tx, st := st } :=
  ⟨rfl, rfl, rfl, rfl, rfl, rfl, rfl, rfl, rfl, rfl, rfl, rfl⟩

/-- R145, R160: a handler that only answers changes `st`, `tx` and the response registers. -/
theorem complete_keeps_flash (r : Response) (after : SeqState) (s : State) (h : r.rargs.length ≤ 5) (hs : r.status ≠ .err) :
    ∃ t, complete r after s = .next t ∧ s.CommandFrame t ∧ t.st = after ∧ t.tx = s.tx ++ encodeResp r
      ∧ t.resp = s.resp.write r ∧ t.crcAcc = s.crcAcc ∧ t.flash = s.flash ∧ ∀ a, t.byteAt a = s.byteAt a :=
  ⟨_, complete_of_success r after s h hs, s.commandFrame_answer .., rfl, rfl, rfl, rfl, rfl, fun _ => rfl⟩

/-! ### `SYNC`, `INFO`, `SEAL`, `GOGO` -/

/-- Settles O29. -/
theorem syncAnswersPico : Obligations.SyncAnswersPico := fun s =>
  complete_keeps_flash ⟨.pico, [], []⟩ .readOpcode s (Nat.zero_le 5) nofun

/-- Settles O30: the five values follow the tag in the order in which `execInfo` lists them. -/
theorem infoReportsGeometry : Obligations.InfoReportsGeometry := by
  intro s
  obtain ⟨t, run, frame, hst, htx, kept⟩ :=
    complete_keeps_flash
      ⟨.okok, [s.geom.flashAddr, s.geom.flashSize, s.geom.eraseSize, s.geom.writeSize, s.geom.maxDataLen], []⟩
      .readOpcode s (le_refl 5) nofun
  exact ⟨t, run, frame, hst, ⟨htx, rfl⟩, kept⟩

/-- Settles O34: the three values do not occur in the answer. -/
theorem sealAcceptsAnyArguments : Obligations.SealAcceptsAnyArguments := fun _ _ _ s =>
  complete_keeps_flash ⟨.okok, [], []⟩ .readOpcode s (Nat.zero_le 5) nofun

/-- Settles O35: the address does not occur in the answer. -/
theorem goEndsSession : Obligations.GoEndsSession := fun _ s =>
  complete_keeps_flash ⟨.okok, [], []⟩ (.ended .byGo) s (Nat.zero_le 5) nofun

/-! ### `READ` -/

/-- R163: the clipped range is read by `memRead` also where it is empty. -/
theorem State.readClipped_eq_memRead (s : State) (addr len : Word) :
    s.readClipped addr len = s.memRead (s.clipLo addr) (s.clipHi addr len - s.clipLo addr) := by
  unfold State.readClipped
  split
  case isTrue => rfl
  case isFalse empty => rw [Nat.sub_eq_zero_of_le (Nat.le_of_not_lt empty)]; rfl

/-- R51: the populated addresses of a range are its clipped range: both lists rise, and they have the same members. -/
theorem State.filter_populated_range' (s : State) (addr len : Word) :
    (List.range' addr.toNat len.toNat).filter s.populated =
      List.range' (s.clipLo addr) (s.clipHi addr len - s.clipLo addr) := by
  have rises (lo n : Nat) : (List.range' lo n).Pairwise (· < ·) := List.pairwise_lt_range'
  refine ((rises _ _).filter _).eq_of_mem_iff (rises _ _) fun a => ?_
  have clip := s.clip_bounds addr len a
  rw [List.mem_filter, List.mem_range'_1, List.mem_range'_1, ← clip]
  omega

/-- R51: a list of addresses gives the bytes of the populated ones among them. -/
theorem State.filterMap_byteAt (s : State) (as : List Nat) :
    as.filterMap s.byteAt = (as.filter s.populated).map s.flash.read := by
  induction as with
  | nil => rfl
  | cons a as ih => cases hp : s.populated a <;> simp [State.byteAt, hp, ih]

/-- R163: what `READ` answers is the bytes of the populated addresses of its range, ascending. -/
theorem State.readClipped_eq_filterMap (s : State) (addr len : Word) :
    s.readClipped addr len = (List.range' addr.toNat len.toNat).filterMap s.byteAt := by
  rw [s.readClipped_eq_memRead, s.filterMap_byteAt, s.filter_populated_range', State.memRead]

/-- Settles O31. -/
theorem readReturnsPopulatedBytesOfRange : Obligations.ReadReturnsPopulatedBytesOfRange := by
  intro addr len s
  obtain ⟨t, run, frame, hst, htx, hresp, kept⟩ :=
    complete_keeps_flash ⟨.okok, [], s.readClipped addr len⟩ .readOpcode s (Nat.zero_le 5) nofun
  rw [encodeResp_payload, ← List.append_assoc, s.readClipped_eq_filterMap] at htx
  rw [s.readClipped_eq_filterMap] at hresp
  exact ⟨t, run, frame, hst, ⟨htx, hresp⟩, kept⟩

/-! ### `ERAS` -/

/-- R164. -/
theorem exec_eras (addr len : Word) (s : State) :
    exec (.eras addr len) s = .next
      { s with
        resp := s.resp.write ⟨.okok, [], []⟩
        flash := (s.eraseClipped addr len).flash
        tx := s.tx ++ encodeResp ⟨.okok, [], []⟩
        st := .readOpcode } :=
  complete_of_success ⟨.okok, [], []⟩ .readOpcode (s.eraseClipped addr len) (Nat.zero_le 5) nofun

/-- Settles O32: the bytes of the flash by `State.read_eraseClipped`. -/
theorem eraseFillsPopulatedRange : Obligations.EraseFillsPopulatedRange := fun addr len s =>
  ⟨_, exec_eras addr len s, s.commandFrame_answer .., rfl, rfl, rfl, rfl,
    State.byteAt_of_range (v := fun _ => erasedByte) rfl (s.read_eraseClipped addr len)⟩

/-! ### `WRIT` -/

/-- R123: `OKOK` with one argument is the tag and the argument, little-endian. -/
theorem encodeResp_arg (v : Word) : encodeResp ⟨.okok, [v], []⟩ = [0x4F, 0x4B, 0x4F, 0x4B] ++ enc32 v := rfl

/-- R165: what a state with the geometry of `s` shows of the flash that a clipped write has left. -/
theorem State.byteAt_writeClipped {s t : State} {addr len : Word} {bs : List Byte} (hg : t.geom = s.geom)
    (hf : t.flash = (s.writeClipped addr len bs).flash) (hl : bs.length = len.toNat) :
    (∀ i (hi : i < bs.length), s.populated (addr.toNat + i) = true → t.byteAt (addr.toNat + i) = some bs[i])
      ∧ ∀ a, (a < addr.toNat ∨ addr.toNat + len.toNat ≤ a ∨ s.populated a = false) → t.byteAt a = s.byteAt a := by
  obtain ⟨stored, others⟩ := State.byteAt_of_range hg fun a => by rw [hf]; exact s.read_writeClipped addr len bs hl a
  refine ⟨fun i hi populated => ?_, others⟩
  rw [stored (addr.toNat + i) (by omega) (by omega) populated, Nat.add_sub_cancel_left, List.getD_eq_getElem _ _ hi]

/-- Settles O33: a well-formed payload has the length of the range, so that byte `i` belongs to an address of it. -/
theorem writeStoresPayloadAndReportsChecksum : Obligations.WriteStoresPayloadAndReportsChecksum := by
  refine fun addr len data s => ⟨fun hw => exec_writ_illFormed hw s, fun hw => ?_⟩
  have hl : data.length = len.toNat := by simpa [Instr.wellFormed] using hw
  refine ⟨_, exec_writ hw s, s.commandFrame_answer .., rfl, ?_, rfl, rfl, State.byteAt_writeClipped rfl rfl hl⟩
  rw [encodeResp_arg, List.append_assoc]

end Sys2Proof.Machine
end

section
/-! SUPPORT, and O39 to O44. What the host reads (R182, R190): a step that awaits a response waits while a byte of it is missing,
and is else `exec` of what it read; then what `exec` of each status does at a host that moves. -/

namespace Sys2Proof.Machine

/-! ### The read of a response -/

/-- A tag that no status has is not found. -/
theorem statusOf_eq_none {t : Tag} (h : ∀ st : Status, st.tag ≠ t) : statusOf t = none := by
  simp [statusOf, h]

theorem HostSide.readTag_of_bytes {h : HostSide} {t : Tag} {rest : List Byte} (hu : h.unread = t.bytes ++ rest) :
    h.readTag = some t := by
  rw [HostSide.readTag, hu, takeTag_bytes, Option.map_some]

/-- R190: after an `OKOK` the rest of the response to the command follows. -/
theorem HostSide.respLen_of_okok {h : HostSide} {rest : List Byte} (hu : h.unread = Status.okok.tag.bytes ++ rest) (cmd : Instr) :
    h.respLen cmd = 4 + restLen cmd :=
  if_pos (HostSide.readTag_of_bytes hu)

/-- R190: after any other four bytes nothing follows. -/
theorem HostSide.respLen_of_other {h : HostSide} {t : Tag} {rest : List Byte} (hu : h.unread = t.bytes ++ rest)
    (other : Status.okok.tag ≠ t) (cmd : Instr) : h.respLen cmd = 4 :=
  if_neg fun e => other (Option.some.inj ((HostSide.readTag_of_bytes hu).symm.trans e)).symm

theorem HostSide.four_le_respLen (h : HostSide) (cmd : Instr) : 4 ≤ h.respLen cmd := by
  unfold HostSide.respLen
  split <;> omega

/-- R120, R124: the responses to a command: an `OKOK` with the arguments and the payload that the command announces, and the other
statuses, which carry nothing. -/
def Response.Fits (r : Response) (cmd : Instr) : Prop :=
  r.status = .okok ∧ r.rargs.length = respArgCount cmd ∧ r.rdata.length = respPayloadLen cmd
    ∨ r.status ≠ .okok ∧ r.rargs = [] ∧ r.rdata = []

/-- R190: the host reads as many bytes as the response has. -/
theorem HostSide.respLen_of_response {h : HostSide} {r : Response} {cmd : Instr} {rest : List Byte} (fits : Response.Fits r cmd)
    (hu : h.unread = encodeResp r ++ rest) : h.respLen cmd = (encodeResp r).length := by
  obtain ⟨status, rargs, rdata⟩ := r
  obtain ⟨rfl, hargs, hdata⟩ | ⟨other, rfl, rfl⟩ := fits
  · have bytes : h.unread = Status.okok.tag.bytes ++ (rargs.flatMap enc32 ++ rdata ++ rest) := by
      simp [hu, encodeResp, Response.toInstr, Instr.bytes, Instr.tag, Instr.args, Instr.payload]
    rw [HostSide.respLen_of_okok bytes, encodeResp, Instr.bytes_length]
    simp only [Response.toInstr, Instr.args, Instr.payload, restLen, hargs, hdata]
    omega
  · cases status with
    | okok => exact absurd rfl other
    | err => exact HostSide.respLen_of_other (t := Status.err.tag) hu (by decide) cmd
    | pico => exact HostSide.respLen_of_other (t := Status.pico.tag) hu (by decide) cmd

/-- R190: the host waits while a byte is missing. -/
theorem hostRead_of_short {s : State} {cmd : Instr} (hs : s.host.sent = some cmd)
    (short : s.host.unread.length < s.host.respLen cmd) : hostRead s = .next s := by
  simp only [hostRead, hs, if_pos short]

/-- R190, R124: a response to the command awaited is read whole and run. -/
theorem hostRead_of_response {s : State} {cmd : Instr} {r : Response} {rest : List Byte} (hs : s.host.sent = some cmd)
    (hc : cmd.isCommand = true) (fits : Response.Fits r cmd) (hu : s.host.unread = encodeResp r ++ rest) :
    hostRead s = exec r.toInstr (s.withHost (s.host.advance (encodeResp r).length)) := by
  have there : ¬s.host.unread.length < (encodeResp r).length := by rw [hu, List.length_append]; omega
  have decoded : decodeResp cmd (s.host.unread.take (encodeResp r).length) = .response r := by
    rw [hu, List.take_left]
    exact responseDecodeInvertsEncode cmd r hc fits
  simp only [hostRead, hs, HostSide.respLen_of_response fits hu, if_neg there, decoded]

/-- R190: four bytes that are no status are read, and are a violation of the protocol. -/
theorem hostRead_of_unknownTag {s : State} {cmd : Instr} {t : Tag} {rest : List Byte} (hs : s.host.sent = some cmd)
    (hu : s.host.unread = t.bytes ++ rest) (unknown : ∀ st : Status, st.tag ≠ t) :
    hostRead s = hostProtocolError t (s.withHost (s.host.advance 4)) := by
  have there : ¬s.host.unread.length < 4 := by rw [hu, List.length_append, Tag.bytes_length]; omega
  have violation : decodeResp cmd (s.host.unread.take 4) = .protocolViolation := by
    have bytes : s.host.unread.take 4 = t.bytes ++ [] := by rw [hu, List.append_nil]; rfl
    unfold decodeResp
    simp only [bytes, takeTag_bytes, statusOf_eq_none unknown]
  simp only [hostRead, hs, HostSide.respLen_of_other hu (unknown .okok), if_neg there, violation, HostSide.readTag_of_bytes hu]

/-- A step of the host that reads. -/
theorem step_of_reading {s : State} {now : HStep} (hm : s.mover = .host) (hp : s.host.progress = .running now)
    (reads : s.host.reading now = true) : step s = mapNext State.popAgenda (hostRead s) := by
  have reading : hostStep s = hostRead s := by simp only [hostStep, hp, if_pos reads]
  rw [step_host hm, reading]

/-- Settles O44: the response is there, or less than its status or than what its `OKOK` announces. -/
theorem hostStepRunsTheResponseItReads : Obligations.HostStepRunsTheResponseItReads := by
  intro s now cmd hm hp hnow hph hs hc
  have reads : s.host.reading now = true := by
    obtain rfl | rfl | rfl | rfl | rfl := hnow <;> exact decide_eq_true hph
  rw [step_of_reading hm hp reads]
  refine ⟨fun r rest fits hu => ?_, fun missing => ?_⟩
  · rw [hostRead_of_response hs hc fits hu]
    rfl
  · have short : s.host.unread.length < s.host.respLen cmd := by
      obtain few | ⟨part, hu, hpart⟩ := missing
      · exact few.trans_le (s.host.four_le_respLen cmd)
      · rw [HostSide.respLen_of_okok hu, hu, List.length_append, restLen]
        exact Nat.add_lt_add_left hpart 4
    rw [hostRead_of_short hs short]
    rfl

/-! ### What the host does with a status -/

theorem exec_okok_at_host {s : State} (hm : s.mover = .host) (rargs : List Word) (rdata : List Byte) :
    exec (.okok rargs rdata) s = hostTakeOk rargs rdata s :=
  exec_response_at_host hm ⟨.okok, rargs, rdata⟩

theorem exec_err_at_host {s : State} (hm : s.mover = .host) : exec .err s = hostTakeErr s :=
  exec_response_at_host hm ⟨.err, [], []⟩

theorem exec_pico_at_host {s : State} (hm : s.mover = .host) : exec .pico s = hostTakePico s :=
  exec_response_at_host hm ⟨.pico, [], []⟩

/-- R182: `ERR!` in the Sync step is a failed attempt. -/
theorem exec_err_in_sync {s : State} (hm : s.mover = .host) (hp : s.host.progress = .running .sync) :
    exec .err s = .next (s.withHost s.host.attemptFailed) := by
  rw [exec_err_at_host hm, hostTakeErr, hp]

/-- Settles O39: whatever is read but `PICO` is a failed attempt, as `ERR!` is. -/
theorem hostSyncStepWantsPico : Obligations.HostSyncStepWantsPico := by
  intro s hm hp
  refine ⟨?pico, fun rargs rdata => ?okok, fun budget => ?again, fun spent => ?timeout, fun t rest hph hs hu unknown => ?unknown⟩
  case pico =>
    rw [exec_pico_at_host hm, hostTakePico, hp]
    rfl
  case okok =>
    rw [exec_okok_at_host hm, exec_err_in_sync hm hp]
    simp only [hostTakeOk, hp]
  case again =>
    rw [exec_err_in_sync hm hp, HostSide.attemptFailed, if_pos budget]
    rfl
  case timeout =>
    rw [exec_err_in_sync hm hp, HostSide.attemptFailed, if_neg (Nat.not_lt.mpr spent)]
    rfl
  case unknown =>
    rw [step_of_reading hm hp (decide_eq_true hph), hostRead_of_unknownTag hs hu unknown,
      exec_err_in_sync (s := { s with host := { s.host with rxPos := s.host.rxPos + 4 } }) hm hp]
    simp only [hostProtocolError, State.withHost_host, HostSide.advance, hp]
    rfl

/-- Settles O40. -/
theorem hostInfoStoresGeometry : Obligations.HostInfoStoresGeometry := by
  intro s a b c d e hm hp
  rw [exec_okok_at_host hm]
  simp only [hostTakeOk, hp]
  rfl

/-- R187: the comparator accepts the chunk's checksum, and the walk goes on behind the chunk. -/
theorem exec_okok_of_checksum {s : State} {addr len : Word} {chunk : List Byte} (hm : s.mover = .host)
    (hp : s.host.progress = .running .write) (hs : s.host.sent = some (.writ addr len chunk)) :
    exec (.okok [crc32 chunk] []) s = .next (s.withHost (s.host.again len.toNat)) := by
  have accepted : crcCheck (crc32 chunk) chunk = true := crcCheck_eq_true_iff.mpr rfl
  rw [exec_okok_at_host hm]
  simp only [hostTakeOk, hp, hs, if_pos accepted]

/-- Settles O41. -/
theorem hostWriteStepValidatesChecksum : Obligations.HostWriteStepValidatesChecksum := by
  intro s addr len c chunk hm hp hs
  by_cases hc : c = crc32 chunk
  · rw [if_pos hc, hc, exec_okok_of_checksum hm hp hs]
    rfl
  · rw [if_neg hc, exec_okok_of_wrongChecksum hm hp hs (Ne.symm hc)]
    rfl

/-- Settles O42. -/
theorem hostEraseAndSealGoOnAfterOk : Obligations.HostEraseAndSealGoOnAfterOk := by
  intro s hm
  rw [exec_okok_at_host hm]
  constructor
  · intro hp
    have next : hostTakeOk [] [] s = .next (s.withHost (s.host.again 1)) := by simp only [hostTakeOk, hp]
    exact next
  · intro hp
    have go : hostTakeOk [] [] s = .next (s.withHost (s.host.goTo .go)) := by simp only [hostTakeOk, hp]
    exact go

/-- R190: the step, with the command awaited, in which a status other than `OKOK` ends the run. -/
theorem unwantedStatus_of_awaiting {s : State} {now : HStep} (hp : s.host.progress = .running now)
    (hnow : now = .info ∨ now = .erase ∨ now = .write ∨ now = .sealImage) :
    hostTakeErr s = .next (s.withHost (s.host.fail (.deviceError now s.host.sent)))
    ∧ (∀ t, hostProtocolError t s = .next (s.withHost (s.host.fail (.protocolError now s.host.sent t))))
    ∧ hostTakePico s = hostProtocolError Status.pico.tag s := by
  obtain rfl | rfl | rfl | rfl := hnow <;> simp only [hostTakeErr, hostProtocolError, hostTakePico, hp, implies_true, and_self]

/-- Settles O43. -/
theorem hostClassifiesUnwantedStatuses : Obligations.HostClassifiesUnwantedStatuses := by
  intro s now hm hp hnow
  obtain ⟨err, violation, pico⟩ := unwantedStatus_of_awaiting hp hnow
  refine ⟨?err, ?pico, fun cmd t rest hph hs hu unknown => ?unknown⟩
  case err =>
    rw [exec_err_at_host hm, err]
    rfl
  case pico =>
    rw [exec_pico_at_host hm, pico, violation]
    rfl
  case unknown =>
    obtain ⟨-, violation, -⟩ := unwantedStatus_of_awaiting (s := s.withHost (s.host.advance 4)) hp hnow
    rw [step_of_reading hm hp (HostSide.reading_of_awaiting hnow hph).1, hostRead_of_unknownTag hs hu unknown, violation,
      ← hs]
    rfl

end Sys2Proof.Machine
end

section
/-! SUPPORT, and O45 to O49. What the host sends (R182 to R189): a step of the host by the answer of `next`, the commands of the
sequence, and the steps that send nothing and leave it to the next (R20). -/

namespace Sys2Proof.Machine

/-! ### A step of the host that does not read -/

section Sending

variable {s : State} {now : HStep} (hm : s.mover = .host) (hp : s.host.progress = .running now)
  (hr : s.host.reading now = false)

include hm hp hr

theorem step_of_sending : step s = mapNext State.popAgenda (hostSend now s) := by
  have sending : hostStep s = hostSend now s := by simp only [hostStep, hp, hr, Bool.false_eq_true, if_false]
  rw [step_host hm, sending]

theorem step_of_next_send {h : HostSide} {st : HStep} {cmd : Instr} (hn : s.host.next now = .send h st cmd)
    (hw : cmd.wellFormed = true) : step s = .next (s.withHost (h.sendIn st cmd cmd.bytes)).popAgenda := by
  rw [step_of_sending hm hp hr]
  simp only [hostSend, hn, encode_of_wellFormed hw, mapNext_next]

theorem step_of_next_stop {h : HostSide} (hn : s.host.next now = .stop h) : step s = .next (s.withHost h).popAgenda := by
  rw [step_of_sending hm hp hr]
  simp only [hostSend, hn, mapNext_next]

theorem step_of_next_refuse {r : Refusal} (hn : s.host.next now = .refuse r) : step s = .refused r := by
  rw [step_of_sending hm hp hr]
  simp only [hostSend, hn, mapNext]

/-- R20: what goes on without a command of its own is no step. -/
theorem step_of_same_next {h : HostSide} {later : HStep} (hp' : h.progress = .running later) (hr' : h.reading later = false)
    (same : s.host.next now = h.next later) : step s = step (s.withHost h) := by
  rw [step_of_sending hm hp hr, step_of_sending (s := s.withHost h) hm hp' hr']
  simp only [hostSend, State.withHost_host, same, State.withHost_withHost]

end Sending

/-! ### The commands of the sequence -/

/-- R181 c: the values that fit a u32 are those of the words. -/
theorem toU32_eq_some {n : Nat} {w : Word} : toU32 n = some w ↔ w.toNat = n := by
  rw [toU32, Option.ite_none_right_eq_some, Option.some_inj]
  constructor
  · rintro ⟨fits, rfl⟩
    rw [BitVec.toNat_ofNat, Nat.mod_eq_of_lt fits]
  · rintro rfl
    exact ⟨w.isLt, by simp⟩

theorem toU32_eq_none {n : Nat} : toU32 n = none ↔ 2 ^ 32 ≤ n := by
  simp [toU32]

theorem exists_word {n : Nat} (fits : n < 2 ^ 32) : ∃ w : Word, w.toNat = n :=
  ⟨BitVec.ofNat 32 n, by rw [BitVec.toNat_ofNat, Nat.mod_eq_of_lt fits]⟩

theorem toNat_pos {w : Word} (nonzero : w ≠ 0) : 0 < w.toNat :=
  Nat.pos_of_ne_zero fun zero => nonzero (BitVec.eq_of_toNat_eq zero)

/-- R181 c: the command for an address, refused where the address does not fit a u32. -/
def commandAt (addr : Nat) (cmd : Word → Instr) : HostCmd :=
  match toU32 addr with
  | some a => .send (cmd a)
  | none => .refuse .hostValueNotU32

theorem commandAt_eq_send {addr : Nat} {f : Word → Instr} {cmd : Instr} :
    commandAt addr f = .send cmd ↔ ∃ a : Word, a.toNat = addr ∧ cmd = f a := by
  simp only [← toU32_eq_some]
  cases h : toU32 addr <;> simp [commandAt, h, eq_comm]

theorem commandAt_eq_refuse {addr : Nat} {f : Word → Instr} :
    commandAt addr f = .refuse .hostValueNotU32 ↔ 2 ^ 32 ≤ addr := by
  rw [← toU32_eq_none]
  cases h : toU32 addr <;> simp [commandAt, h]

theorem commandAt_ne_nothing (addr : Nat) (f : Word → Instr) : commandAt addr f ≠ .nothing := by
  cases h : toU32 addr <;> simp [commandAt, h]

theorem eraseCmd_eq (addr paddedLen : Nat) (dev : Geometry) (k : Nat) :
    eraseCmd addr paddedLen dev k =
      if k < align paddedLen dev.eraseSize.toNat / dev.eraseSize.toNat then
        commandAt (addr + k * dev.eraseSize.toNat) (.eras · dev.eraseSize)
      else .nothing := rfl

theorem writeCmd_eq (addr : Nat) (padded : List Byte) (dev : Geometry) (off : Nat) :
    writeCmd addr padded dev off =
      if off < padded.length then
        commandAt (addr + off) (.writ · (BitVec.ofNat 32 (min dev.maxDataLen.toNat (padded.length - off)))
          ((padded.drop off).take (min dev.maxDataLen.toNat (padded.length - off))))
      else .nothing := rfl

theorem goCmd_eq (addr : Nat) : goCmd addr = commandAt addr .gogo := rfl

/-- R182, R181 a. -/
theorem syncCmd_of_fits {addr : Nat} (fits : addr < 2 ^ 32) (attempts maxAttempts : Nat) :
    syncCmd addr attempts maxAttempts = if attempts < maxAttempts then .send .sync else .nothing := by
  obtain ⟨a, ha⟩ := exists_word fits
  rw [syncCmd, toU32_eq_some.mpr ha]

theorem syncCmd_of_large {addr : Nat} (large : 2 ^ 32 ≤ addr) (attempts maxAttempts : Nat) :
    syncCmd addr attempts maxAttempts = .refuse .hostValueNotU32 := by
  rw [syncCmd, toU32_eq_none.mpr large]

/-- R188. -/
theorem sealCmd_of_words {addr : Nat} {padded : List Byte} {a n : Word} (ha : a.toNat = addr) (hn : n.toNat = padded.length) :
    sealCmd addr padded = .send (.sealImage a n (crc32 padded)) := by
  rw [sealCmd, toU32_eq_some.mpr ha, toU32_eq_some.mpr hn]

theorem sealCmd_of_large {addr : Nat} {padded : List Byte} (large : 2 ^ 32 ≤ addr ∨ 2 ^ 32 ≤ padded.length) :
    sealCmd addr padded = .refuse .hostValueNotU32 := by
  unfold sealCmd
  split
  case h_1 ha hn =>
    rw [← toU32_eq_none, ← toU32_eq_none, ha, hn] at large
    exact absurd large (by simp)
  case h_2 => rfl

/-! ### The Erase chunks -/

section EraseCmd

variable {addr paddedLen k : Nat} {dev : Geometry}

theorem eraseCmd_eq_send {cmd : Instr} :
    eraseCmd addr paddedLen dev k = .send cmd ↔ k < align paddedLen dev.eraseSize.toNat / dev.eraseSize.toNat
      ∧ ∃ w : Word, w.toNat = addr + k * dev.eraseSize.toNat ∧ cmd = .eras w dev.eraseSize := by
  rw [eraseCmd_eq]
  by_cases left : k < align paddedLen dev.eraseSize.toNat / dev.eraseSize.toNat
  · rw [if_pos left, and_iff_right left, commandAt_eq_send]
  · simp [left]

theorem eraseCmd_eq_refuse :
    eraseCmd addr paddedLen dev k = .refuse .hostValueNotU32 ↔
      k < align paddedLen dev.eraseSize.toNat / dev.eraseSize.toNat ∧ 2 ^ 32 ≤ addr + k * dev.eraseSize.toNat := by
  rw [eraseCmd_eq]
  by_cases left : k < align paddedLen dev.eraseSize.toNat / dev.eraseSize.toNat
  · rw [if_pos left, and_iff_right left, commandAt_eq_refuse]
  · simp [left]

theorem eraseCmd_eq_nothing :
    eraseCmd addr paddedLen dev k = .nothing ↔ align paddedLen dev.eraseSize.toNat / dev.eraseSize.toNat ≤ k := by
  rw [eraseCmd_eq, ← not_lt]
  by_cases left : k < align paddedLen dev.eraseSize.toNat / dev.eraseSize.toNat
  · simp [left, commandAt_ne_nothing]
  · simp [left]

end EraseCmd

/-- The chunk of `e` bytes in which an offset lies is the one whose number is the quotient by `e`. -/
theorem mem_chunk_iff {addr e : Nat} (he : 0 < e) (k a : Nat) :
    addr + k * e ≤ a ∧ a < addr + k * e + e ↔ k = (a - addr) / e ∧ addr ≤ a := by
  rw [eq_comm (a := k), Nat.div_eq_iff he]
  constructor <;> intro h <;> omega

/-- Settles O47: `a` lies in the chunk whose number is `(a - addr) / e`, and in no other. -/
theorem eraseChunksCoverRangeOnce : Obligations.EraseChunksCoverRangeOnce := by
  intro addr paddedLen dev nonzero e
  have he : 0 < e := toNat_pos nonzero
  refine ⟨fun none_refused a => ?cover, fun k cmd given => ?sends, fun k => ?refuses⟩
  case cover =>
    have chunk (k : Nat) : (∃ w, eraseCmd addr paddedLen dev k = .send (.eras w dev.eraseSize) ∧ w.toNat ≤ a ∧ a < w.toNat + e)
        ↔ k = (a - addr) / e ∧ addr ≤ a ∧ k < align paddedLen e / e := by
      rw [← and_assoc, ← mem_chunk_iff he]
      constructor
      · rintro ⟨w, given, inside⟩
        obtain ⟨left, v, hv, same⟩ := eraseCmd_eq_send.mp given
        cases same
        exact ⟨hv ▸ inside, left⟩
      · rintro ⟨inside, left⟩
        have fits := lt_of_not_ge fun large => none_refused k (eraseCmd_eq_refuse.mpr ⟨left, large⟩)
        obtain ⟨w, hw⟩ := exists_word fits
        exact ⟨w, eraseCmd_eq_send.mpr ⟨left, w, hw, rfl⟩, hw.symm ▸ inside⟩
    have within (lo : addr ≤ a) : (a - addr) / e < align paddedLen e / e ↔ a < addr + align paddedLen e := by
      rw [Nat.div_lt_iff_lt_mul he, Nat.div_mul_cancel (dvd_align paddedLen e)]
      omega
    simp only [chunk]
    constructor
    · rintro ⟨lo, hi⟩
      exact ⟨_, ⟨rfl, lo, (within lo).mpr hi⟩, fun _ other => other.1⟩
    · rintro ⟨k, ⟨rfl, lo, left⟩, -⟩
      exact ⟨lo, (within lo).mp left⟩
  case sends =>
    obtain ⟨-, w, hw, rfl⟩ := eraseCmd_eq_send.mp given
    exact ⟨w, rfl, hw⟩
  case refuses => rw [eraseCmd_eq_refuse, Nat.lt_div_iff_mul_lt_of_dvd he.ne' (dvd_align paddedLen e)]

/-! ### The chunk at the cursor, and going on behind the last one (R20) -/

theorem writeCmd_eq_nothing {addr off : Nat} {padded : List Byte} {dev : Geometry} :
    writeCmd addr padded dev off = .nothing ↔ padded.length ≤ off := by
  rw [writeCmd_eq, ← not_lt]
  by_cases left : off < padded.length
  · simp [left, commandAt_ne_nothing]
  · simp [left]

/-- With nothing sent the host of a step begins the next one. -/
theorem HostSide.goTo_of_send {h : HostSide} (hph : h.phase = .send) (step : HStep) :
    h.goTo step = { h with progress := .running step, cursor := 0, sent := none } := by
  rw [HostSide.goTo, ← hph]

theorem HostSide.nextErase_eq {h : HostSide} {dev : Geometry} {padded : List Byte} (hd : h.dev = some dev)
    (hpd : h.padded = some padded) :
    h.next .erase = (eraseCmd h.image.addr padded.length dev h.cursor).orNext h .erase (h.goTo .write).nextWrite := by
  simp only [HostSide.next, HostSide.nextErase, hd, hpd]

theorem HostSide.nextWrite_eq {h : HostSide} {dev : Geometry} {padded : List Byte} (hd : h.dev = some dev)
    (hpd : h.padded = some padded) :
    h.next .write = (writeCmd h.image.addr padded dev h.cursor).orNext h .write (h.goTo .sealImage).nextSeal := by
  simp only [HostSide.next, HostSide.nextWrite, hd, hpd]

theorem HostSide.nextSeal_eq {h : HostSide} {padded : List Byte} (hpd : h.padded = some padded) :
    h.next .sealImage = (sealCmd h.image.addr padded).orNext h .sealImage (.stop h) := by
  simp only [HostSide.next, HostSide.nextSeal, hpd]

/-- A length of at most `max_data_len` bytes fits a u32. -/
theorem toNat_ofNat_min (w : Word) (n : Nat) : (BitVec.ofNat 32 (min w.toNat n)).toNat = min w.toNat n := by
  rw [BitVec.toNat_ofNat, Nat.mod_eq_of_lt ((Nat.min_le_left _ _).trans_lt w.isLt)]

/-- R187: the chunk at an offset is as long as its command says. -/
theorem writ_wellFormed_chunk (addr maxLen : Word) (padded : List Byte) (off : Nat) :
    (Instr.writ addr (BitVec.ofNat 32 (min maxLen.toNat (padded.length - off)))
      ((padded.drop off).take (min maxLen.toNat (padded.length - off)))).wellFormed = true := by
  rw [writ_wellFormed_eq, decide_eq_true_eq, toNat_ofNat_min, List.length_take, List.length_drop,
    Nat.min_eq_left (Nat.min_le_right _ _)]

/-- Settles O48: at the cursor there is a chunk whose address fits a u32, or one that is refused, or none. -/
theorem hostSendsChunkAtItsCursor : Obligations.HostSendsChunkAtItsCursor := by
  intro s dev padded hm hph hd hpd
  refine ⟨fun hp => ?erase, fun hp => ?write⟩
  case erase =>
    have hr := HostSide.reading_of_send (now := .erase) hph
    have next := HostSide.nextErase_eq hd hpd
    refine ⟨fun left fits => ?sends, fun left large => ?refuses, fun none_left => ?goesOn⟩
    case sends =>
      obtain ⟨w, hw⟩ := exists_word fits
      have given := eraseCmd_eq_send.mpr ⟨left, w, hw, rfl⟩
      rw [given] at next
      exact ⟨w, _, hw, encode_of_wellFormed rfl, step_of_next_send hm hp hr next rfl⟩
    case refuses =>
      rw [eraseCmd_eq_refuse.mpr ⟨left, large⟩] at next
      exact step_of_next_refuse hm hp hr next
    case goesOn =>
      rw [eraseCmd_eq_nothing.mpr none_left] at next
      rw [← HostSide.goTo_of_send hph]
      exact step_of_same_next (h := s.host.goTo .write) (later := .write) hm hp hr rfl rfl next
  case write =>
    have hr := HostSide.reading_of_send (now := .write) hph
    have next := HostSide.nextWrite_eq hd hpd
    refine ⟨fun left fits => ?sends, fun left large => ?refuses, fun none_left => ?goesOn⟩
    case sends =>
      obtain ⟨w, hw⟩ := exists_word fits
      rw [writeCmd_eq, if_pos left, commandAt_eq_send.mpr ⟨w, hw, rfl⟩] at next
      have hlen := toNat_ofNat_min dev.maxDataLen (padded.length - s.host.cursor)
      have wellFormed := writ_wellFormed_chunk w dev.maxDataLen padded s.host.cursor
      exact ⟨w, _, _, hw, hlen, encode_of_wellFormed wellFormed, step_of_next_send hm hp hr next wellFormed⟩
    case refuses =>
      rw [writeCmd_eq, if_pos left, commandAt_eq_refuse.mpr large] at next
      exact step_of_next_refuse hm hp hr next
    case goesOn =>
      rw [writeCmd_eq_nothing.mpr none_left] at next
      rw [← HostSide.goTo_of_send hph]
      exact step_of_same_next (h := s.host.goTo .sealImage) (later := .sealImage) hm hp hr rfl rfl next

/-! ### The steps that send one command (R182, R183, R188, R189) -/

/-- Settles O49: the command of the step is given or refused, by whether its values fit a u32; Sync has also its budget. -/
theorem hostSendsSyncInfoSealAndGo : Obligations.HostSendsSyncInfoSealAndGo := by
  intro s hm hph
  have hr (now : HStep) : s.host.reading now = false := HostSide.reading_of_send hph
  refine ⟨fun hp => ?sync, fun hp => ?info, fun padded hp hpd => ?sealing, fun hp => ?go⟩
  case sync =>
    have next : s.host.next .sync = (syncCmd s.host.image.addr s.host.attempts s.host.maxAttempts).orNext s.host .sync
        (.stop (s.host.fail (.syncTimeout s.host.attempts))) := rfl
    refine ⟨fun large => ?refuses, fun fits budget => ?sends, fun fits spent => ?stops⟩
    case refuses =>
      rw [syncCmd_of_large large] at next
      exact step_of_next_refuse hm hp (hr _) next
    case sends =>
      rw [syncCmd_of_fits fits, if_pos budget] at next
      exact step_of_next_send hm hp (hr _) next rfl
    case stops =>
      rw [syncCmd_of_fits fits, if_neg (Nat.not_lt.mpr spent)] at next
      exact step_of_next_stop hm hp (hr _) next
  case info => exact step_of_next_send hm hp (hr _) rfl rfl
  case sealing =>
    have next := HostSide.nextSeal_eq hpd
    refine ⟨fun fits fits' => ?sends, fun large => ?refuses⟩
    case sends =>
      obtain ⟨a, ha⟩ := exists_word fits
      obtain ⟨n, hn⟩ := exists_word fits'
      rw [sealCmd_of_words ha hn] at next
      exact ⟨a, n, _, ha, hn, encode_of_wellFormed rfl, step_of_next_send hm hp (hr _) next rfl⟩
    case refuses =>
      rw [sealCmd_of_large large] at next
      exact step_of_next_refuse hm hp (hr _) next
  case go =>
    have next : s.host.next .go = (goCmd s.host.image.addr).orNext s.host .go (.stop s.host) := rfl
    rw [goCmd_eq] at next
    refine ⟨fun fits => ?sends, fun large => ?refuses⟩
    case sends =>
      obtain ⟨a, ha⟩ := exists_word fits
      rw [commandAt_eq_send.mpr ⟨a, ha, rfl⟩] at next
      exact ⟨a, _, ha, encode_of_wellFormed rfl, step_of_next_send hm hp (hr _) next rfl⟩
    case refuses =>
      rw [commandAt_eq_refuse.mpr large] at next
      exact step_of_next_refuse hm hp (hr _) next

/-! ### Pad and Bounds, which send nothing (R184, R185) -/

/-- Settles O46. -/
theorem hostBoundsCheckRejectsImages : Obligations.HostBoundsCheckRejectsImages := by
  intro s dev padded hm hp hd hpd bad
  have check : imageOutOfBounds s.host.image.addr padded.length dev = true ↔ bad := by
    simp only [imageOutOfBounds, Bool.or_eq_true, decide_eq_true_eq, bad, gt_iff_lt]
  have next : s.host.next .bounds =
      if bad then .stop (s.host.fail (.boundsError s.host.image.addr padded.length dev)) else (s.host.goTo .erase).next .erase := by
    simp only [HostSide.next, HostSide.nextBounds, hd, hpd, check]
  constructor
  · intro out
    rw [if_pos out] at next
    exact step_of_next_stop hm hp rfl next
  · intro inside
    rw [if_neg inside] at next
    exact step_of_same_next (h := s.host.goTo .erase) (later := .erase) hm hp rfl rfl rfl next

/-- The padded data stands from the Pad step on. -/
theorem HostSide.GoesOn.keeps_padded {h k : HostSide} (on : h.GoesOn k) (padded : h.progress ≠ .running .pad) :
    k.padded = h.padded := by
  induction on with
  | here => rfl
  | pad _ hp => exact absurd hp padded
  | bounds _ _ _ _ _ _ _ ih | erase _ _ _ _ _ _ _ ih | write _ _ _ _ _ _ _ ih => exact ih nofun

theorem HostSide.sendIn_padded (h : HostSide) (step : HStep) (cmd : Instr) (bs : List Byte) :
    (h.sendIn step cmd bs).padded = h.padded := by
  cases step <;> rfl

/-- What the host comes to from a step behind Pad without reading, it comes to with the same padded data. -/
theorem step_keeps_padded {s t : State} {now : HStep} (hm : s.mover = .host) (hp : s.host.progress = .running now)
    (hr : s.host.reading now = false) (behind : now ≠ .pad) (h : step s = .next t) : t.host.padded = s.host.padded := by
  rw [step_host hm, mapNext_eq_next] at h
  obtain ⟨u, hu, rfl⟩ := h
  have hnow : s.host.progress ≠ .running .pad := fun e => behind (HProgress.running.inj (hp.symm.trans e))
  obtain same | ⟨_, _, hp', reads, -⟩ | ⟨_, k, st, cmd, -, -, on, -, -, -, -, -, sent⟩
    | ⟨_, j, -, -, on, ⟨stops, -⟩ | ⟨e, fails⟩⟩ := hostStep_cases hm hu
  · rw [State.popAgenda_host, same]
  · cases hp.symm.trans hp'
    rw [hr] at reads
    cases reads
  · rw [State.popAgenda_host, sent, HostSide.sendIn_padded, on.keeps_padded hnow]
  · rw [State.popAgenda_host, stops, on.keeps_padded hnow]
  · rw [State.popAgenda_host, fails]
    exact on.keeps_padded hnow

theorem padTo_length {n : Nat} (hn : 0 < n) (data : List Byte) : (padTo n data).length = align data.length n := by
  have := (align_bounds data.length hn).1
  rw [padTo, List.length_append, List.length_replicate]
  omega

/-- R184: behind the data of the image stand zero bytes. -/
theorem padTo_getElem {n i : Nat} {data : List Byte} (h : i < (padTo n data).length) (behind : data.length ≤ i) :
    (padTo n data)[i] = 0x00 := by
  simp only [padTo, List.getElem_append_right behind, List.getElem_replicate]

/-- R184: the host with its image padded, at Bounds. -/
def HostSide.padImage (dev : Geometry) (h : HostSide) : HostSide :=
  { h.goTo .bounds with padded := some (padTo dev.writeSize.toNat h.image.data) }

/-- R184, R181 b. -/
theorem HostSide.nextPad_eq {h : HostSide} {dev : Geometry} (hd : h.dev = some dev) :
    h.next .pad =
      if dev.writeSize = 0 ∨ dev.eraseSize = 0 ∨ dev.maxDataLen = 0 then .refuse .hostGranularityZero
      else (h.padImage dev).next .bounds := by
  simp only [HostSide.next, HostSide.nextPad, hd, Bool.or_eq_true, decide_eq_true_eq, or_assoc, HostSide.padImage]

/-- Settles O45: where no granularity is zero the host's step is that of a host which has padded the image and stands at Bounds. -/
theorem hostPadsToWriteGranularityOrRefuses : Obligations.HostPadsToWriteGranularityOrRefuses := by
  intro s dev hm hp hd
  have next := HostSide.nextPad_eq hd
  constructor
  · intro hw he hmax
    rw [if_neg (by simp only [hw, he, hmax, or_self, not_false_eq_true])] at next
    have same := step_of_same_next (later := .bounds) hm hp rfl rfl rfl next
    exact ⟨_, same, fun t ht => step_keeps_padded (s := s.withHost (s.host.padImage dev)) (now := .bounds) hm rfl rfl nofun
        (same ▸ ht), padTo_length (toNat_pos hw) _, List.prefix_append _ _, fun i hi behind => padTo_getElem hi behind⟩
  · intro zero
    rw [if_pos zero] at next
    exact step_of_next_refuse hm hp rfl next

end Sys2Proof.Machine
end

section
/-! SUPPORT, O50 and O51. The host's progress over every step: it stands still after `DONE` and after a fatal error until a further
flashing session (R191, R244), and else goes through the sequence in order (R180). -/

namespace Sys2Proof.Machine

/-! ### A host whose run is over -/

theorem HostSide.over_of_ended {h : HostSide} (ended : h.progress = .done ∨ ∃ e, h.progress = .failed e) : h.over = true := by
  obtain hp | ⟨e, hp⟩ := ended <;> rw [HostSide.over, hp]

/-- R191: a host whose run is over does nothing. -/
theorem hostStep_of_ended {s : State} (ended : s.host.progress = .done ∨ ∃ e, s.host.progress = .failed e) :
    hostStep s = .next s := by
  obtain hp | ⟨e, hp⟩ := ended <;> rw [hostStep, hp]

theorem step_newFlashing {s : State} {image : Image} {n : Nat} (hm : s.mover = .newFlashing image n) :
    step s = .next (s.newFlashing image n).popAgenda := by
  rw [step_eq, hm]
  rfl

/-- What no agent but the host does: it moves the host's sequence on, or has the host send. Left out are a failure that the host
sees and the moves that begin a session. -/
theorem step_keeps_progress {s t : State} (hm : s.mover ≠ .host) (hk : ∀ k, s.mover ≠ .failHost k)
    (hn : ∀ p, s.mover ≠ .newSession p) (hf : ∀ image n, s.mover ≠ .newFlashing image n) (h : step s = .next t) :
    t.host.progress = s.host.progress ∧ t.host.tx = s.host.tx := by
  obtain ⟨-, u, hu, rfl⟩ | ⟨host, -⟩ | ⟨n, -, rfl⟩ | ⟨n, -, rfl⟩ | ⟨bs, -, rfl⟩ | ⟨n, bs, -, rfl⟩ | ⟨-, rfl⟩
    | ⟨k, fails, -⟩ | ⟨p, new, -⟩ | ⟨image, n, flashing, -⟩ := step_cases h
  · rw [State.popAgenda_host, (deviceStep_reaches hm hu).1]
    exact ⟨rfl, rfl⟩
  · exact absurd host hm
  · exact ⟨rfl, rfl⟩
  · exact ⟨rfl, rfl⟩
  · exact ⟨rfl, rfl⟩
  · exact ⟨rfl, rfl⟩
  · rw [State.popAgenda_host, (deviceFail_reaches s).1]
    exact ⟨rfl, rfl⟩
  · exact absurd fails (hk k)
  · exact absurd new (hn p)
  · exact absurd flashing (hf image n)

/-- Settles O50: the host's own step and a failure that it sees change nothing after the end, and no other agent moves it on. -/
theorem hostStopsAfterFatalErrorAndDone : Obligations.HostStopsAfterFatalErrorAndDone := by
  intro s
  refine ⟨fun ended => ⟨fun t hn hf h => ?stays, fun image n hm => ?anew⟩, fun st image n hp hm => ?running⟩
  case stays =>
    by_cases hm : s.mover = .host
    · rw [step_host hm, hostStep_of_ended ended] at h
      cases h
      exact ⟨rfl, rfl, fun _ => rfl⟩
    · refine and_assoc.mp ⟨?_, fun host => absurd host hm⟩
      by_cases hk : ∃ k, s.mover = .failHost k
      · obtain ⟨k, hk⟩ := hk
        rw [step_failHost hk, hostFail_of_over (HostSide.over_of_ended ended)] at h
        cases h
        exact ⟨rfl, rfl⟩
      · exact step_keeps_progress hm (fun k fails => hk ⟨k, fails⟩) hn hf h
  case anew =>
    rw [step_newFlashing hm, State.newFlashing, if_pos (HostSide.over_of_ended ended)]
    rfl
  case running =>
    have going : ¬s.host.over = true := by rw [HostSide.over, hp]; exact Bool.false_ne_true
    rw [step_newFlashing hm, State.newFlashing, if_neg going]
    rfl

/-! ### What is passed over without a command -/

/-- The place of `h` in the sequence is before that of `k`, both between Pad and Seal. -/
def HostSide.Before (h k : HostSide) : Prop :=
  ∃ m n, h.progress.rank = some m ∧ k.progress.rank = some n ∧ 2 ≤ m ∧ m < n ∧ n ≤ 6

/-- A host that goes on to the next place `j` comes, if to no further one, to a later place. -/
theorem HostSide.before_of_next {h j k : HostSide} {m : Nat} (hh : h.progress.rank = some m) (hj : j.progress.rank = some (m + 1))
    (low : 2 ≤ m) (high : m ≤ 5) (on : k.progress = j.progress ∨ j.Before k) : h.Before k := by
  obtain same | ⟨m', n, hm', hk, -, lt, le⟩ := on
  · exact ⟨m, m + 1, hh, same ▸ hj, low, Nat.lt_succ_self m, Nat.succ_le_succ high⟩
  · cases hj.symm.trans hm'
    exact ⟨m, n, hh, hk, low, Nat.lt_of_succ_lt lt, le⟩

/-- R20: the steps that can be passed over are Pad, Bounds, Erase and Write. -/
theorem HostSide.GoesOn.before {h k : HostSide} (on : h.GoesOn k) : k.progress = h.progress ∨ h.Before k := by
  induction on with
  | here => exact .inl rfl
  | pad _ hp _ _ _ _ _ ih => exact .inr (HostSide.before_of_next (m := 2) (by rw [hp]; rfl) rfl (by decide) (by decide) ih)
  | bounds _ _ hp _ _ _ _ ih => exact .inr (HostSide.before_of_next (m := 3) (by rw [hp]; rfl) rfl (by decide) (by decide) ih)
  | erase _ _ hp _ _ _ _ ih => exact .inr (HostSide.before_of_next (m := 4) (by rw [hp]; rfl) rfl (by decide) (by decide) ih)
  | write _ _ hp _ _ _ _ ih => exact .inr (HostSide.before_of_next (m := 5) (by rw [hp]; rfl) rfl (by decide) (by decide) ih)

/-- R193: with no chunk to erase from the start there is nothing to flash. -/
theorem eq_nil_of_eraseCmd_nothing {addr : Nat} {padded : List Byte} {dev : Geometry} (nonzero : dev.eraseSize ≠ 0)
    (h : eraseCmd addr padded.length dev 0 = .nothing) : padded = [] := by
  have covered := Nat.div_mul_cancel (dvd_align padded.length dev.eraseSize.toNat)
  rw [Nat.le_zero.mp (eraseCmd_eq_nothing.mp h), Nat.zero_mul] at covered
  exact List.eq_nil_of_length_eq_zero (Nat.le_zero.mp (covered ▸ (align_bounds padded.length (toNat_pos nonzero)).1))

/-- R193: a host that passes over the whole of Erase on the way to Write, or over the whole of Write, has nothing to flash. -/
theorem HostSide.GoesOn.padded_nil {h k : HostSide} (on : h.GoesOn k) (hi : h.Inv)
    (fresh : h.progress = .running .erase ∧ k.progress = .running .write ∨ h.progress = .running .write → h.cursor = 0)
    (moved : h.progress ≠ k.progress) (hk : k.progress = .running .write ∨ k.progress = .running .sealImage) :
    k.padded = some [] := by
  induction on with
  | here => exact absurd rfl moved
  | pad dev hp hd hw he hm _ ih =>
    exact ih (hi.of_goesOn (.pad dev hp hd hw he hm (.here _))) (fun _ => rfl) (by obtain e | e := hk <;> rw [e] <;> exact nofun) hk
  | bounds dev padded hp hd hpd hb _ ih =>
    exact ih (hi.of_goesOn (.bounds dev padded hp hd hpd hb (.here _))) (fun _ => rfl)
      (by obtain e | e := hk <;> rw [e] <;> exact nofun) hk
  | erase dev padded hp hd hpd hc on ih =>
    obtain write | sealing := hk
    · obtain ⟨dev', hd', -, nonzero, -⟩ := (hi.known hp rfl).padded (by decide)
      cases hd.symm.trans hd'
      rw [fresh (.inl ⟨hp, write⟩)] at hc
      rw [on.keeps_padded nofun, ← eq_nil_of_eraseCmd_nothing nonzero hc]
      exact hpd
    · exact ih (hi.of_goesOn (.erase dev padded hp hd hpd hc (.here _))) (fun _ => rfl) (by rw [sealing]; exact nofun)
        (.inr sealing)
  | write dev padded hp hd hpd hc on _ =>
    rw [fresh (.inr hp)] at hc
    rw [on.keeps_padded nofun, ← List.eq_nil_of_length_eq_zero (Nat.le_zero.mp (writeCmd_eq_nothing.mp hc))]
    exact hpd

/-- R187: with nothing to flash no `WRIT` is sent. -/
theorem HostSide.next_write_ne_send_of_empty {h : HostSide} {cmd : Instr} (hpd : h.padded = some []) :
    h.next .write ≠ .send h .write cmd := by
  intro sent
  cases hd : h.dev with
  | none => simp [HostSide.next, HostSide.nextWrite, hd] at sent
  | some dev =>
    rw [HostSide.nextWrite_eq hd hpd, writeCmd_eq_nothing.mpr (Nat.zero_le _)] at sent
    have ok := HostSide.nextSeal_ok (h := h.goTo .sealImage) rfl
    rw [show (h.goTo .sealImage).nextSeal = .send h .write cmd from sent] at ok
    obtain ⟨on, hp, -⟩ := ok
    obtain same | ⟨m, n, hm, -, -, lt, high⟩ := on.before
    · cases hp.symm.trans same
    · cases hm
      exact absurd lt (Nat.not_lt.mpr high)

/-! ### The order of the sequence (R180) -/

/-- R180: the host stands where it stood, at the next place, or behind steps that have nothing to send. -/
def HostSide.InOrder (h k : HostSide) : Prop :=
  ∀ m n, h.progress.rank = some m → k.progress.rank = some n →
    n = m ∨ n = m + 1 ∨ m = 2 ∧ n = 4 ∨ 2 ≤ m ∧ m ≤ 4 ∧ n = 6 ∧ k.padded = some []

namespace HostSide.InOrder

variable {h k : HostSide}

theorem of_same (same : k.progress = h.progress) : h.InOrder k := fun m n hm hn =>
  .inl (by rw [same, hm] at hn; exact (Option.some.inj hn).symm)

theorem of_failed {e : HostError} (failed : k.progress = .failed e) : h.InOrder k := fun _ _ _ hn => by
  rw [failed] at hn
  cases hn

theorem of_next {m : Nat} (hh : h.progress.rank = some m) (hk : k.progress.rank = some (m + 1)) : h.InOrder k := by
  intro m' n hm' hn
  cases hh.symm.trans hm'
  cases hk.symm.trans hn
  exact .inr (.inl rfl)

theorem of_attemptFailed : h.InOrder h.attemptFailed := by
  unfold HostSide.attemptFailed
  split
  · exact of_same rfl
  · exact of_failed rfl

/-- R182, R183, R186 to R190: a response read. -/
theorem of_takes (takes : h.Takes k) : h.InOrder k := by
  obtain rfl | ⟨hp, rfl | rfl⟩ | ⟨hp, dev, rfl⟩ | ⟨_, n, -, -, rfl⟩ | ⟨hp, rfl⟩ | ⟨_, e, -, rfl⟩ := takes
  · exact of_same rfl
  · exact of_attemptFailed
  · exact of_next (m := 0) (by rw [hp]; rfl) rfl
  · exact of_next (m := 1) (by rw [hp]; rfl) rfl
  · exact of_same rfl
  · exact of_next (m := 6) (by rw [hp]; rfl) rfl
  · exact of_failed rfl

/-- The host goes on to the step whose command it sends. -/
theorem of_goesOn (hi : h.Inv) (on : h.GoesOn k) {st : HStep} {cmd : Instr} (hp : k.progress = .running st)
    (hc : st.sends cmd = true) (hs : k.next st = .send k st cmd) : h.InOrder k := by
  obtain same | ⟨m, n, hm, hn, low, lt, high⟩ := on.before
  · exact of_same same
  intro m' n' hm' hn'
  cases hm.symm.trans hm'
  cases hn.symm.trans hn'
  have moved : h.progress ≠ k.progress := fun e => by rw [e, hn] at hm; cases hm; exact lt.false
  have notWrite (hmw : m ≠ 5) : h.progress ≠ .running .write := fun e => by rw [e] at hm; cases hm; exact hmw rfl
  have notErase (hme : m ≠ 4) : h.progress ≠ .running .erase := fun e => by rw [e] at hm; cases hm; exact hme rfl
  rw [hp] at hn
  cases st with
  | bounds => cases hc
  | write =>
    cases hn
    by_cases near : m = 4
    · exact .inr (.inl (by rw [near]))
    · have empty := on.padded_nil hi (fun fresh => fresh.elim (fun e => absurd e.1 (notErase near))
        fun e => absurd e (notWrite (by omega))) moved (.inl hp)
      exact absurd hs (HostSide.next_write_ne_send_of_empty empty)
  | sealImage =>
    cases hn
    by_cases near : m = 5
    · exact .inr (.inl (by rw [near]))
    · have empty := on.padded_nil hi (fun fresh => fresh.elim (fun e => by rw [hp] at e; cases e.2)
        fun e => absurd e (notWrite near)) moved (.inr hp)
      exact .inr (.inr (.inr ⟨low, by omega, rfl, empty⟩))
  | sync | info | pad | erase | go =>
    cases hn
    omega

/-- Go is come to by no other step's passing over. -/
theorem progress_of_go (on : h.GoesOn k) (hp : k.progress = .running .go) : h.progress = .running .go := by
  obtain same | ⟨m, n, -, hn, -, -, high⟩ := on.before
  · rw [← same, hp]
  · rw [hp] at hn
    cases hn
    exact absurd high (by decide)

theorem sendIn (hi : h.Inv) (on : h.GoesOn k) {st : HStep} {cmd : Instr} (hp : k.progress = .running st)
    (hc : st.sends cmd = true) (hs : k.next st = .send k st cmd) : h.InOrder (k.sendIn st cmd cmd.bytes) := by
  have order := of_goesOn hi on hp hc hs
  cases st with
  | go => exact of_next (m := 7) (by rw [progress_of_go on hp]; rfl) rfl
  | sync | info | pad | bounds | erase | write | sealImage => exact order

/-- A host that goes on and stops without an error has not moved on: behind Pad all that it needs is known. -/
theorem of_stop (hi : h.Inv) (on : h.GoesOn k) (unknown : k.dev = none ∨ k.padded = none) : h.InOrder k := by
  obtain same | ⟨m, n, -, hn, low, lt, -⟩ := on.before
  · exact of_same same
  · obtain ⟨dev, hd, -, -, -, hpd⟩ := (hi.of_goesOn on).padded n hn (Nat.succ_le_of_lt (low.trans_lt lt))
    rw [hd, hpd] at unknown
    exact unknown.elim nofun nofun

/-- R195, R189: a write that fails. -/
theorem failWrite (on : h.GoesOn k) {st : HStep} (hp : k.progress = .running st) (bs : List Byte) (j : Nat) :
    h.InOrder (k.failWrite st bs j) := by
  rw [HostSide.failWrite_eq]
  split
  case isTrue go =>
    subst go
    exact of_next (m := 7) (by rw [progress_of_go on hp]; rfl) rfl
  case isFalse => exact of_failed rfl

/-- R182, R195: a read that fails. -/
theorem failRead (step : HStep) (j : Nat) : h.InOrder (h.failRead step j) := by
  by_cases sync : step = .sync
  · subst sync
    exact of_attemptFailed (h := h.advance _)
  · rw [HostSide.failRead_of_ne_sync sync]
    exact of_failed rfl

end HostSide.InOrder

theorem hostStep_inOrder {s t : State} (hi : s.host.Inv) (hm : s.mover = .host) (h : hostStep s = .next t) :
    s.host.InOrder t.host := by
  obtain same | ⟨_, n, -, -, -, takes⟩ | ⟨_, k, st, cmd, -, -, on, hp, hc, -, next, -, sent⟩
    | ⟨_, j, -, -, on, ⟨stops, unknown⟩ | ⟨e, fails⟩⟩ := hostStep_cases hm h
  · exact .of_same (congrArg HostSide.progress same)
  · exact HostSide.InOrder.of_takes (h := s.host.advance n) takes
  · rw [sent]; exact .sendIn hi on hp hc next
  · rw [stops]; exact .of_stop hi on unknown
  · rw [fails]; exact .of_failed rfl

theorem hostFail_inOrder (k : Nat) (s : State) : s.host.InOrder (hostFail k s).host := by
  obtain same | ⟨step, -, ⟨j, st, cmd, -, on, hp, -, failed⟩ | ⟨-, failed⟩⟩ := hostFail_cases k s
  · exact .of_same (congrArg HostSide.progress same)
  · rw [failed]; exact .failWrite on hp _ k
  · rw [failed]; exact .failRead step k

/-- Settles O51: the host moves on in its own steps and in the failures that it sees, and in no other. -/
theorem hostStepsInOrder : Obligations.HostStepsInOrder := by
  intro s t m n hi hn hf h hrm hrn
  have order : s.host.InOrder t.host := by
    by_cases hm : s.mover = .host
    · rw [step_host hm, mapNext_eq_next] at h
      obtain ⟨u, hu, rfl⟩ := h
      exact hostStep_inOrder (t := u) hi hm hu
    by_cases hk : ∃ k, s.mover = .failHost k
    · obtain ⟨k, hk⟩ := hk
      rw [step_failHost hk] at h
      cases h
      exact hostFail_inOrder k s
    · exact .of_same (step_keeps_progress hm (fun k fails => hk ⟨k, fails⟩) hn hf h).1
  exact order m n hrm hrn

end Sys2Proof.Machine
end
